-- ==== Sys2Proof/Word.lean ====
section
/-! DEFINITION. The plain words of DUKPT-CORE: the byte, the 32-bit bus word, and a run of zero bytes. -/

namespace Sys2Proof

/-- A byte is 8 bits (R7). -/
abbrev Byte := BitVec 8

/-- The one access width of the register interface, and the width of a command word (R61, R90). -/
abbrev Word := BitVec 32

/-- `zeros(n)` of R9: `n` bytes of `0x00`. -/
def zeros (n : Nat) : List Byte := List.replicate n 0#8

end Sys2Proof
end

