-- ==== Sys2Proof/Config.lean ====
section
/-! DEFINITION. What one implementation of DUKPT-CORE fixes: the parameters of R8. The sizes R7 fixes are constants
of the hardware and stand where they are used. No value of this hardware is left free by the spec, so this file
holds no opaque constant. -/

namespace Sys2Proof

/-- The parameters of R8 that a model may vary. `N_ENGINES` is not among them: a state is ONE instance, and
instances share nothing (R74, R300). -/
structure Params where
  /-- `DATA_MAX`, the capacity in bytes of `DIN`: a multiple of 16 from 16 to 1008. -/
  dataMax : Nat
  /-- `DEC_UNPAD`: whether decryption checks and strips the PKCS7 padding (R141). -/
  decUnpad : Bool
  deriving DecidableEq, Repr

/-- `DOUT_MAX = DATA_MAX + 16` (R8): it follows `DATA_MAX`. -/
def Params.doutMax (p : Params) : Nat := p.dataMax + 16

/-- The values the spec takes (R8): `DATA_MAX = 256`, `DEC_UNPAD = 1`. -/
def Params.taken : Params := { dataMax := 256, decUnpad := true }

end Sys2Proof
end

