-- ==== Sys2Proof/Syntax.lean ====
section
/-! DEFINITION. The command set DKC-1 as syntax, one constructor for each row of the opcode map (R92), the
cipher algorithms (R91, R131), and what the outside world may do to the block (R14, R18, R19, R310). -/

namespace Sys2Proof

/-- The commands of R92. A command word carries no operand (R95: "there are no immediates in the command word"), so
no constructor has an argument; the `ENC` and `DEC` rows are listed once for each legal `ALG`. -/
inductive Instr where
  /-- `NOP`, word `0x00000000` (R270). -/
  | nop
  /-- `CLEAR`, word `0x00000001` (R271). -/
  | clear
  /-- `ENC.DES`, word `0x00000010` (R143). -/
  | encDes
  /-- `ENC.TDES`, word `0x00000110` (R144). -/
  | encTdes
  /-- `ENC.AES`, word `0x00000210` (R145). -/
  | encAes
  /-- `DEC.DES`, word `0x00000011` (R146). -/
  | decDes
  /-- `DEC.TDES`, word `0x00000111` (R147). -/
  | decTdes
  /-- `DEC.AES`, word `0x00000211` (R148). -/
  | decAes
  /-- `EXPAND3DES`, word `0x00000020` (R149). -/
  | expand3des
  /-- `XOR`, word `0x00000021` (R115). -/
  | xor
  /-- `AND`, word `0x00000022` (R116). -/
  | and
  /-- `GETCTR`, word `0x00000023` (R214). -/
  | getctr
  /-- `DERIVE_IPEK`, word `0x00000030` (R215). -/
  | deriveIpek
  /-- `DERIVE_WK`, word `0x00000031` (R216). -/
  | deriveWk
  /-- `DERIVE_SK`, word `0x00000032` (R217). -/
  | deriveSk
  /-- `DERIVE_KEY`, word `0x00000033` (R218). -/
  | deriveKey
  /-- `GEN_KEY`, word `0x00000034` (R219). -/
  | genKey
  /-- `ENC_REG`, word `0x00000035` (R220). -/
  | encReg
  /-- `DECRYPT_TRACK`, word `0x00000040` (R260). -/
  | decryptTrack
  deriving DecidableEq, Repr

/-- The cipher algorithms of R91 and R131. -/
inductive Alg where
  | des
  | tdes
  | aes
  deriving DecidableEq, Repr

/-- One action of the outside world on the block. Two agents act on the state, the host and the engine (R18), and
their actions form one total order (R71); a list of events is such an order, chosen by the environment. -/
inductive Event where
  /-- `HostRead(addr)` by an access of `size` bytes (R61; only `size = 4` is admitted, R68). -/
  | read (size addr : Nat)
  /-- `HostWrite(addr, v)` by an access of `size` bytes, in the SEQUENCER view: a write to `CMD` starts the command
  (R94) and the engine then takes its steps one by one. -/
  | write (size addr : Nat) (v : Word)
  /-- `HostWrite(0x000, w)` in the FUNCTIONAL view (R19, R72): "the whole command as one step at the `CMD` write". -/
  | command (w : Word)
  /-- The engine takes its enabled step before the next host access (R230). -/
  | engine
  /-- Reset, "an input of the block outside the register map" (R310). -/
  | reset
  deriving DecidableEq, Repr

end Sys2Proof
end

