-- ==== Sys2Proof/WellFormed.lean ====
section
/-! DEFINITION. The checks on syntax: the parameters R8 allows, the accesses R61 and R68 give a form to, and commands.
Every check is a Bool, so that `decide` runs it. -/

namespace Sys2Proof

/-- R8: `DATA_MAX` is "any multiple of 16 from 16 to 1008". `DEC_UNPAD` may be 0 or 1. -/
def Params.wellFormed (p : Params) : Bool :=
  decide (16 ≤ p.dataMax) && decide (p.dataMax ≤ 1008) && decide (p.dataMax % 16 = 0)

/-- R95: a command word has no immediates and no addressing modes, so there is nothing in a command that could be
ill formed. One line for each constructor, so that a new command cannot slip past. -/
def Instr.wellFormed : Instr → Bool
  | .nop => true
  | .clear => true
  | .encDes => true
  | .encTdes => true
  | .encAes => true
  | .decDes => true
  | .decTdes => true
  | .decAes => true
  | .expand3des => true
  | .xor => true
  | .and => true
  | .getctr => true
  | .deriveIpek => true
  | .deriveWk => true
  | .deriveSk => true
  | .deriveKey => true
  | .genKey => true
  | .encReg => true
  | .decryptTrack => true

/-- R60, R61: an access is one 32-bit word, at a multiple of 4, inside the 4 KiB register map. (Which words of the map
are mapped is R62, `Machine.mapAddr`.) -/
def wordAccess (size addr : Nat) : Bool :=
  decide (size = 4) && decide (addr % 4 = 0) && decide (addr < 0x1000)

/-- An event is well formed when the access it makes, if any, has the form of R61. -/
def Event.wellFormed : Event → Bool
  | .read size addr => wordAccess size addr
  | .write size addr _ => wordAccess size addr
  | .command _ => true
  | .engine => true
  | .reset => true

end Sys2Proof
end

