-- ==== Sys2Proof/Decode.lean ====
section
/-! DEFINITION. The command word `CMD32` (R90, R91, R92): its fields, the decoder, total on every word and rejecting by
name (R93), and after it the encoder. -/

namespace Sys2Proof

/-- Why a word is not a command (R93 lists the four cases). The hardware tells none of them apart: each is
`IllegalCommand` (R283). -/
inductive DecodeReject where
  /-- A bit of 31:10 is set. -/
  | nonZeroHighBits
  /-- `ALG = 3` with `OP` `0x10` or `0x11`. -/
  | reservedAlg
  /-- `ALG ≠ 0` with any other `OP` of the table. -/
  | algNotZero
  /-- `OP` is not in the table. -/
  | unassignedOp
  deriving DecidableEq, Repr

/-- Field `ZERO`, bits 31:10 (R90). -/
def fieldZero (w : Word) : BitVec 22 := w.extractLsb' 10 22

/-- Field `ALG`, bits 9:8 (R90). -/
def fieldAlg (w : Word) : BitVec 2 := w.extractLsb' 8 2

/-- Field `OP`, bits 7:0 (R90). -/
def fieldOp (w : Word) : BitVec 8 := w.extractLsb' 0 8

/-- `ALG` as the cipher selector of `ENC` and `DEC` (R91): 0 DES, 1 3DES, 2 AES-128, 3 reserved. -/
def algOf : BitVec 2 → Option Alg
  | 0#2 => some .des
  | 1#2 => some .tdes
  | 2#2 => some .aes
  | _ => none

/-- The `ENC` row of an algorithm (R92). -/
def encOf : Alg → Instr
  | .des => .encDes
  | .tdes => .encTdes
  | .aes => .encAes

/-- The `DEC` row of an algorithm (R92). -/
def decOf : Alg → Instr
  | .des => .decDes
  | .tdes => .decTdes
  | .aes => .decAes

/-- The commands of R92 whose `ALG` must be zero, by `OP`. -/
def plainOf : BitVec 8 → Option Instr
  | 0x00#8 => some .nop
  | 0x01#8 => some .clear
  | 0x20#8 => some .expand3des
  | 0x21#8 => some .xor
  | 0x22#8 => some .and
  | 0x23#8 => some .getctr
  | 0x30#8 => some .deriveIpek
  | 0x31#8 => some .deriveWk
  | 0x32#8 => some .deriveSk
  | 0x33#8 => some .deriveKey
  | 0x34#8 => some .genKey
  | 0x35#8 => some .encReg
  | 0x40#8 => some .decryptTrack
  | _ => none

/-- The command a word stands for, or the reason it stands for none (R92, R93: "Decoding is total"). -/
def decode (w : Word) : Except DecodeReject Instr :=
  if fieldZero w ≠ 0#22 then .error .nonZeroHighBits
  else if fieldOp w = 0x10#8 then
    match algOf (fieldAlg w) with
    | some a => .ok (encOf a)
    | none => .error .reservedAlg
  else if fieldOp w = 0x11#8 then
    match algOf (fieldAlg w) with
    | some a => .ok (decOf a)
    | none => .error .reservedAlg
  else
    match plainOf (fieldOp w) with
    | some i => if fieldAlg w = 0#2 then .ok i else .error .algNotZero
    | none => .error .unassignedOp

/-- The `OP` column of R92. -/
def opField : Instr → BitVec 8
  | .nop => 0x00#8
  | .clear => 0x01#8
  | .encDes => 0x10#8
  | .encTdes => 0x10#8
  | .encAes => 0x10#8
  | .decDes => 0x11#8
  | .decTdes => 0x11#8
  | .decAes => 0x11#8
  | .expand3des => 0x20#8
  | .xor => 0x21#8
  | .and => 0x22#8
  | .getctr => 0x23#8
  | .deriveIpek => 0x30#8
  | .deriveWk => 0x31#8
  | .deriveSk => 0x32#8
  | .deriveKey => 0x33#8
  | .genKey => 0x34#8
  | .encReg => 0x35#8
  | .decryptTrack => 0x40#8

/-- The `ALG` column of R92. -/
def algField : Instr → BitVec 2
  | .nop => 0#2
  | .clear => 0#2
  | .encDes => 0#2
  | .encTdes => 1#2
  | .encAes => 2#2
  | .decDes => 0#2
  | .decTdes => 1#2
  | .decAes => 2#2
  | .expand3des => 0#2
  | .xor => 0#2
  | .and => 0#2
  | .getctr => 0#2
  | .deriveIpek => 0#2
  | .deriveWk => 0#2
  | .deriveSk => 0#2
  | .deriveKey => 0#2
  | .genKey => 0#2
  | .encReg => 0#2
  | .decryptTrack => 0#2

/-- The command word of a command: `ZERO`, `ALG`, `OP` in bits 31:10, 9:8, 7:0 (R90). -/
def encode (i : Instr) : Word := 0#22 ++ algField i ++ opField i

/-- The host's question of the decoder: the instruction in the low `nbits` bits of `w`. A command is exactly one
32-bit word (R90), so no byte order enters. -/
def decodeTableWord (nbits w : Nat) : Option Instr :=
  match decode (BitVec.ofNat 32 (w % 2 ^ nbits)) with
  | .ok i => some i
  | .error _ => none

end Sys2Proof
end

