-- ==== Sys2Proof/Machine/Bytes.lean ====
section
/-! DEFINITION. Byte sequences: their big-endian value (R10), the packing of arrays into bus words (R64), the named
slices (R12), and the primitives `lpad`, `xor`, `and` (R110 to R112). -/

namespace Sys2Proof.Machine

/-- `val(b)` of R10: the first byte is the most significant. -/
def val (b : List Byte) : Nat := b.foldl (fun acc x => acc * 256 + x.toNat) 0

/-- `bytes_n(v)` of R10: the `n`-byte sequence with value `v mod 256^n`. -/
def bytesN : Nat → Nat → List Byte
  | 0, _ => []
  | n + 1, v => BitVec.ofNat 8 (v / 256 ^ n) :: bytesN n v

/-- The 32-bit word at byte offset `off` of an array (R64): byte `off` in bits 31:24. Bytes beyond the end of the
array read as zero. -/
def readWord (arr : List Byte) (off : Nat) : Word :=
  arr.getD off 0#8 ++ arr.getD (off + 1) 0#8 ++ arr.getD (off + 2) 0#8 ++ arr.getD (off + 3) 0#8

/-- The array after a write of `v` at byte offset `off` (R64). Bytes beyond the end of the array are discarded. -/
def writeWord (arr : List Byte) (off : Nat) (v : Word) : List Byte :=
  (((arr.set off (v.extractLsb' 24 8)).set (off + 1) (v.extractLsb' 16 8)).set (off + 2) (v.extractLsb' 8 8)).set
    (off + 3) (v.extractLsb' 0 8)

/-- `first8(b) = b[0..7]` (R12). -/
def first8 (b : List Byte) : List Byte := b.take 8

/-- `last8(b)`, also `low8BytesOf(b)`: the last 8 bytes (R12). -/
def last8 (b : List Byte) : List Byte := b.drop (b.length - 8)

/-- `low3BytesOf(b)`: the last 3 bytes (R12). -/
def low3BytesOf (b : List Byte) : List Byte := b.drop (b.length - 3)

/-- `lpad(a, n)` of R110: zero bytes are added in front. -/
def lpad (a : List Byte) (n : Nat) : List Byte := zeros (n - a.length) ++ a

/-- `xor(a, b)` of R111: the shorter operand is left-padded, then bytewise exclusive or. -/
def xorBytes (a b : List Byte) : List Byte :=
  let n := max a.length b.length
  (lpad a n).zipWith (fun x y => x ^^^ y) (lpad b n)

/-- `and(a, b)` of R112: the shorter operand is left-padded, then bytewise and. -/
def andBytes (a b : List Byte) : List Byte :=
  let n := max a.length b.length
  (lpad a n).zipWith (fun x y => x &&& y) (lpad b n)

end Sys2Proof.Machine
end

