-- ==== Sys2Proof/Machine/State.lean ====
section
/-! DEFINITION. The state of one instance of DUKPT-CORE (R20), its reset value (R40), and the reasons a step can
stop. Byte arrays are lists in sequence order, index 0 first (R9); that they have the lengths R20 gives them is part of
`Machine.State.inv` (Safety.lean), which every step keeps. -/

namespace Sys2Proof.Machine

/-- The stages of R33. -/
inductive Stage where
  /-- 0: no command is running. -/
  | idle
  /-- 1: compute a single-step command. -/
  | exec
  /-- 2: derive the IPEK into `CURKEY`. -/
  | ipek
  /-- 3: load `CTR`, `KSNR`, `SR` for the working-key loop. -/
  | wkInit
  /-- 4: process the counter bit `SR` selects, then shift `SR`. -/
  | wkIter
  /-- 5: derive the session key from `CURKEY`. -/
  | session
  /-- 6: AES-decrypt `DIN` with `CURKEY`. -/
  | track
  /-- 7: publish the result or the error, zeroise the transients, clear `BUSY`. -/
  | finish
  deriving DecidableEq, Repr

/-- The error kinds of R281. -/
inductive ErrKind where
  /-- `0x01`: boundary only. -/
  | malformedHex
  /-- `0x02`: produced by the engine. -/
  | cipherOperationFailed
  /-- `0x03`: boundary only. -/
  | missingKSN
  /-- `0x04`: boundary only. -/
  | missingTrackData
  /-- `0x05`: excluded layer only; a reserved number (R282). -/
  | deviceNotReady
  /-- `0x06`: excluded layer only; a reserved number (R282). -/
  | transactionStartFailed
  /-- `0x10`: produced by the engine. -/
  | illegalCommand
  /-- `0x11`: produced by the engine. -/
  | badOperand
  deriving DecidableEq, Repr

/-- A typed failure, `Kind(sub)` in the spec's pseudocode (R14, R280). -/
structure Err where
  kind : ErrKind
  sub : BitVec 8
  deriving DecidableEq, Repr

/-- The rows of the register map (R62). An array register is named with the byte offset of the word inside it. -/
inductive MapReg where
  | cmd
  | status
  | errcode
  | klen
  | dlen
  | olen
  | stage
  | sr
  | key (off : Nat)
  | ksn (off : Nat)
  | iv (off : Nat)
  | din (off : Nat)
  | dout (off : Nat)
  deriving DecidableEq, Repr

/-- The whole state of one instance: the tuple of registers of R20, then three fields of the MODEL's own that are not
hardware: the instance's fixed parameters, the actions of the outside world still to come, and the values the host has
been given by its reads. -/
structure State where
  /-- `KEY`, 24 bytes, write only to the host (R21, R22). -/
  key : List Byte
  /-- `KLEN`, 5 bits (R23). -/
  klen : BitVec 5
  /-- `KSN`, 10 bytes (R24). -/
  ksn : List Byte
  /-- `IV`, 8 bytes, read by no command (R25). -/
  iv : List Byte
  /-- `DIN`, `DATA_MAX` bytes (R26). -/
  din : List Byte
  /-- `DLEN`, 11 bits (R26). -/
  dlen : BitVec 11
  /-- `DOUT`, `DATA_MAX + 16` bytes (R27). -/
  dout : List Byte
  /-- `OLEN`, 11 bits (R27). -/
  olen : BitVec 11
  /-- `CMD`, 32 bits (R29). -/
  cmd : Word
  /-- `STATUS.BUSY` (R30). -/
  busy : Bool
  /-- `STATUS.DONE` (R30). -/
  done : Bool
  /-- `STATUS.ERR` (R30). -/
  err : Bool
  /-- `ERRCODE`, 16 bits: `KIND` [7:0], `SUB` [15:8] (R31). -/
  errcode : BitVec 16
  /-- `STAGE` (R33). -/
  stage : Stage
  /-- `SR`, 21 bits, the shift register (R34). -/
  sr : BitVec 21
  /-- `CTR`, 21 bits (R35). -/
  ctr : BitVec 21
  /-- `KSNR`, 64 bits (R35). -/
  ksnr : BitVec 64
  /-- `CURKEY`, 16 bytes (R35). -/
  curkey : List Byte
  /-- `RES`, the result before it is published (R36). -/
  res : List Byte
  /-- `RLEN`, the length of `RES` (R36). Its width is DEDUCED (log entry 5). -/
  rlen : BitVec 11
  /-- `PERR`, 16 bits, an error pending publication (R36). -/
  perr : BitVec 16
  /-- MODEL (DESIGN CHOICE, log entry 1): the parameters of this instance (R8). R20: they "are not state"; no step
  changes them. -/
  params : Params
  /-- MODEL (DESIGN CHOICE, log entry 2): what the outside world does next, first event first (R18, R71). -/
  agenda : List Event
  /-- MODEL (DESIGN CHOICE, log entry 4): the values returned to the host's reads so far, oldest first, each with its address. -/
  returned : List (Nat × Word)
  deriving DecidableEq, Repr

/-- Why the machine stops with a fault. -/
inductive Fault where
  /-- Raised by the engine's turn when `BUSY = 1` but `CMD`, `STAGE` name no step of R232 to R244. R230 says that a
  step is enabled in every state with `BUSY = 1`; the states that raise this one break the invariants of R245 and no run
  reaches them (DEDUCED, log entry 8). Safe: the model stops where the spec describes nothing. -/
  | noEnabledStep
  deriving DecidableEq, Repr

/-- Why the machine refuses an action. The first three are R68: such an access "is not admitted ... A model gives such
an access no step, or refuses it" (DESIGN CHOICE, log entry 7). -/
inductive Refusal where
  /-- Raised by a host access that is not 32 bits wide (R68). Safe: no value is returned and nothing changes. -/
  | notAWordAccess (size : Nat)
  /-- Raised by a host access whose address is not a multiple of 4 (R68). Safe, as above. -/
  | misalignedAddress (addr : Nat)
  /-- Raised by a host access to an address R62 does not map (R68). Safe, as above. -/
  | unmappedAddress (addr : Nat)
  /-- Raised by an arm of `exec` whose command has no meaning yet. Safe. No arm uses it. -/
  | notModelled (mnemonic : String)
  deriving DecidableEq, Repr

/-- R40 for an instance with parameters `p`: "after reset every register of rule R20 is zero". -/
def State.resetOf (p : Params) : State :=
  { key := zeros 24, klen := 0#5, ksn := zeros 10, iv := zeros 8
    din := zeros p.dataMax, dlen := 0#11, dout := zeros p.doutMax, olen := 0#11
    cmd := 0#32, busy := false, done := false, err := false, errcode := 0#16
    stage := .idle, sr := 0#21, ctr := 0#21, ksnr := 0#64, curkey := zeros 16
    res := [], rlen := 0#11, perr := 0#16
    params := p, agenda := [], returned := [] }

/-- The machine right after reset (R40), at the parameter values the spec takes (R8), with nothing asked of it yet
(R312). The zero operand registers are R40's reading, not the conservative one of R41 (DESIGN CHOICE, log entry 6). -/
def State.reset : State := State.resetOf Params.taken

end Sys2Proof.Machine
end

