-- ==== Sys2Proof/Machine/Flags.lean ====
section
/-! DEFINITION. The flags and codes software reads as words: `STATUS` (R30), `ERRCODE` (R31, R281), `STAGE` (R33). These
are the only flags of the hardware: no operation has a carry, zero or overflow flag (R30). -/

namespace Sys2Proof.Machine

/-- A flag as a word with the flag at bit 0. -/
def flagWord (b : Bool) : Word := if b then 1#32 else 0#32

/-- `STATUS` as a host reads it (R30): `BUSY` bit 0, `DONE` bit 1, `ERR` bit 2, the other bits zero. -/
def statusWord (s : State) : Word := flagWord s.busy ||| flagWord s.done <<< 1 ||| flagWord s.err <<< 2

/-- The number of a stage (R33). -/
def stageCode : Stage → BitVec 3
  | .idle => 0#3
  | .exec => 1#3
  | .ipek => 2#3
  | .wkInit => 3#3
  | .wkIter => 4#3
  | .session => 5#3
  | .track => 6#3
  | .finish => 7#3

/-- The `KIND` value of an error kind (R281). -/
def errKindCode : ErrKind → BitVec 8
  | .malformedHex => 0x01#8
  | .cipherOperationFailed => 0x02#8
  | .missingKSN => 0x03#8
  | .missingTrackData => 0x04#8
  | .deviceNotReady => 0x05#8
  | .transactionStartFailed => 0x06#8
  | .illegalCommand => 0x10#8
  | .badOperand => 0x11#8

/-- The kind a `KIND` value stands for; none for zero ("no error") and for every value R281 does not list. -/
def errKindOf (c : BitVec 8) : Option ErrKind :=
  [ErrKind.malformedHex, .cipherOperationFailed, .missingKSN, .missingTrackData, .deviceNotReady,
    .transactionStartFailed, .illegalCommand, .badOperand].find? fun k => errKindCode k == c

/-- `kind | (sub << 8)` (R31, R94). -/
def errWord (e : Err) : BitVec 16 := e.sub ++ errKindCode e.kind

/-- `IllegalCommand`, `SUB = 0` (R283). -/
def illegalCommand : Err := { kind := .illegalCommand, sub := 0#8 }

/-- `BadOperand` with its sub-cause: 1 for `KLEN > 24`, 2 for `DLEN > DATA_MAX` (R284). -/
def badOperand (sub : BitVec 8) : Err := { kind := .badOperand, sub := sub }

/-- `CipherOperationFailed` with its sub-cause: 1 key length, 2 data length, 3 padding (R285). -/
def cipherFailed (sub : BitVec 8) : Err := { kind := .cipherOperationFailed, sub := sub }

end Sys2Proof.Machine
end

