-- ==== Sys2Proof/Machine/Operands.lean ====
section
/-! DEFINITION. Operand assembly (R21, R24, R26, R95), which operands a command reads (R95, R284), the legal operand
lengths (R96), and the checks a start makes on them (R94 steps 4 to 7). -/

namespace Sys2Proof.Machine

/-- `key = KEY[0..KLEN-1]` (R21). -/
def keyOperand (s : State) : List Byte := s.key.take s.klen.toNat

/-- `data = DIN[0..DLEN-1]`, empty when `DLEN = 0` (R26). -/
def dataOperand (s : State) : List Byte := s.din.take s.dlen.toNat

/-- The commands that read `KEY`: "all but `NOP`, `CLEAR`, `GETCTR`" (R284). -/
def readsKey : Instr → Bool
  | .nop => false
  | .clear => false
  | .encDes => true
  | .encTdes => true
  | .encAes => true
  | .decDes => true
  | .decTdes => true
  | .decAes => true
  | .expand3des => true
  | .xor => true
  | .and => true
  | .getctr => false
  | .deriveIpek => true
  | .deriveWk => true
  | .deriveSk => true
  | .deriveKey => true
  | .genKey => true
  | .encReg => true
  | .decryptTrack => true

/-- The commands that read `DIN`: "`ENC.*`, `DEC.*`, `XOR`, `AND`, `DECRYPT_TRACK`" (R284). -/
def readsDin : Instr → Bool
  | .nop => false
  | .clear => false
  | .encDes => true
  | .encTdes => true
  | .encAes => true
  | .decDes => true
  | .decTdes => true
  | .decAes => true
  | .expand3des => false
  | .xor => true
  | .and => true
  | .getctr => false
  | .deriveIpek => false
  | .deriveWk => false
  | .deriveSk => false
  | .deriveKey => false
  | .genKey => false
  | .encReg => false
  | .decryptTrack => true

/-- The commands that read `KSN` (R95). -/
def readsKsn : Instr → Bool
  | .nop => false
  | .clear => false
  | .encDes => false
  | .encTdes => false
  | .encAes => false
  | .decDes => false
  | .decTdes => false
  | .decAes => false
  | .expand3des => false
  | .xor => false
  | .and => false
  | .getctr => true
  | .deriveIpek => true
  | .deriveWk => true
  | .deriveSk => false
  | .deriveKey => true
  | .genKey => true
  | .encReg => true
  | .decryptTrack => true

/-- The legal `KLEN` set of each command (R96, the second column). -/
def legalKlen : Instr → Nat → Bool
  | .nop, _ => true
  | .clear, _ => true
  | .encDes, n => n == 8
  | .encTdes, n => n == 24
  | .encAes, n => n == 16
  | .decDes, n => n == 8
  | .decTdes, n => n == 24
  | .decAes, n => n == 16
  | .expand3des, n => decide (1 ≤ n) && decide (n ≤ 24)
  | .xor, n => decide (n ≤ 24)
  | .and, n => decide (n ≤ 24)
  | .getctr, _ => true
  | .deriveIpek, n => n == 16 || n == 24
  | .deriveWk, n => n == 16
  | .deriveSk, n => n == 16
  | .deriveKey, n => n == 16 || n == 24
  | .genKey, n => n == 16
  | .encReg, n => n == 16
  | .decryptTrack, n => n == 16 || n == 24

/-- A non-zero multiple of `b` up to `dataMax`: the legal `DLEN` of a decryption with block width `b` (R70, R96). -/
def wholeBlocks (b dataMax n : Nat) : Bool := decide (0 < n) && decide (n % b = 0) && decide (n ≤ dataMax)

/-- The legal `DLEN` set of each command (R96, the third column) for the capacity `dataMax`. -/
def legalDlen (dataMax : Nat) : Instr → Nat → Bool
  | .nop, _ => true
  | .clear, _ => true
  | .encDes, n => decide (n ≤ dataMax)
  | .encTdes, n => decide (n ≤ dataMax)
  | .encAes, n => decide (n ≤ dataMax)
  | .decDes, n => wholeBlocks 8 dataMax n
  | .decTdes, n => wholeBlocks 8 dataMax n
  | .decAes, n => wholeBlocks 16 dataMax n
  | .expand3des, _ => true
  | .xor, n => decide (n ≤ dataMax)
  | .and, n => decide (n ≤ dataMax)
  | .getctr, _ => true
  | .deriveIpek, _ => true
  | .deriveWk, _ => true
  | .deriveSk, _ => true
  | .deriveKey, _ => true
  | .genKey, _ => true
  | .encReg, _ => true
  | .decryptTrack, n => wholeBlocks 16 dataMax n

/-- Steps 4 to 7 of the start sequence (R94): the first check that fails, in the order of R290, or none. -/
def startError (i : Instr) (s : State) : Option Err :=
  if readsKey i && decide (24 < s.klen.toNat) then some (badOperand 1#8)
  else if readsDin i && decide (s.params.dataMax < s.dlen.toNat) then some (badOperand 2#8)
  else if !legalKlen i s.klen.toNat then some (cipherFailed 1#8)
  else if !legalDlen s.params.dataMax i s.dlen.toNat then some (cipherFailed 2#8)
  else none

/-- The first stage of each command (R231). -/
def firstStage : Instr → Stage
  | .nop => .exec
  | .clear => .exec
  | .encDes => .exec
  | .encTdes => .exec
  | .encAes => .exec
  | .decDes => .exec
  | .decTdes => .exec
  | .decAes => .exec
  | .expand3des => .exec
  | .xor => .exec
  | .and => .exec
  | .getctr => .exec
  | .deriveIpek => .ipek
  | .deriveWk => .wkInit
  | .deriveSk => .session
  | .deriveKey => .ipek
  | .genKey => .exec
  | .encReg => .exec
  | .decryptTrack => .ipek

/-- The number of engine steps of each command from its first stage to `IDLE` (R231, R242). -/
def engineSteps : Instr → Nat
  | .nop => 2
  | .clear => 2
  | .encDes => 2
  | .encTdes => 2
  | .encAes => 2
  | .decDes => 2
  | .decTdes => 2
  | .decAes => 2
  | .expand3des => 2
  | .xor => 2
  | .and => 2
  | .getctr => 2
  | .deriveIpek => 2
  | .deriveWk => 23
  | .deriveSk => 2
  | .deriveKey => 25
  | .genKey => 2
  | .encReg => 2
  | .decryptTrack => 26

/-- Step 9 of R94: the commands whose current key is loaded from `KEY[0..15]` at start. -/
def loadsCurkey : Instr → Bool
  | .nop => false
  | .clear => false
  | .encDes => false
  | .encTdes => false
  | .encAes => false
  | .decDes => false
  | .decTdes => false
  | .decAes => false
  | .expand3des => false
  | .xor => false
  | .and => false
  | .getctr => false
  | .deriveIpek => false
  | .deriveWk => true
  | .deriveSk => true
  | .deriveKey => false
  | .genKey => false
  | .encReg => false
  | .decryptTrack => false

end Sys2Proof.Machine
end

