-- ==== Sys2Proof/Machine/Ops.lean ====
section
/-! DEFINITION. The named operations over the registers: starting a command (R94), taking an error, at start and
during execution (R286), publishing a result (R27, R244), the register map (R62, R64, R66 to R68) and reset (R310). -/

namespace Sys2Proof.Machine

/-! ### Starting a command, and the return from an error -/

/-- Steps 1 and 2 of R94: the word is stored, the flags and the result of the command before it are erased. This is also
all there is of a return from an error: "The error flags persist until the host starts the next command, whose start
sequence clears `DONE`, `ERR` and `ERRCODE` before anything else" (R291). -/
def beginCommand (w : Word) (s : State) : State :=
  { s with cmd := w, done := false, err := false, errcode := 0#16, olen := 0#11, dout := zeros s.params.doutMax }

/-! ### Taking an error -/

/-- `fail(kind, sub)` of R94, the entry of an error found at start (R286): `ERR`, `ERRCODE` and `DONE` are set and
nothing else changes; `BUSY` stays 0 and `STAGE` stays `IDLE`. -/
def failAtStart (e : Err) (s : State) : State := { s with err := true, errcode := errWord e, done := true }

/-- The entry of an error found during execution (R286): the error is noted in `PERR`, `RES` is left empty, and control
goes to `FINISH`, which publishes it (R244). -/
def raiseInExecution (e : Err) (s : State) : State := { s with perr := errWord e, stage := .finish }

/-- The start of a word that is not a command (R94 step 3, R283), while `BUSY = 0`; while `BUSY = 1` the write is
ignored (R66). -/
def startIllegal (w : Word) (s : State) : State :=
  if s.busy then s else failAtStart illegalCommand (beginCommand w s)

/-! ### Publishing a result -/

/-- `DOUT[0..len(r)-1] <- r` on an array. -/
def overlay (arr r : List Byte) : List Byte := r ++ arr.drop r.length

/-- The end of a command without error (R27, R246): the result is in `DOUT[0..OLEN-1]` and `DONE` is set. -/
def deliver (r : List Byte) (s : State) : State :=
  { s with dout := overlay s.dout r, olen := BitVec.ofNat 11 r.length, done := true }

/-- The end of a command whose function may raise (R246): its result, or "`ERR`, `ERRCODE`, `DONE` set if the function
raises". -/
def conclude (r : Except Err (List Byte)) (s : State) : State :=
  match r with
  | .ok bytes => deliver bytes s
  | .error e => failAtStart e s

/-- The functional view of a command (R19, R246): while `BUSY = 1` the write to `CMD` is ignored (R66); otherwise the
start sequence of R94 through step 7 and then, if no check failed, the command's own effect `effect`. -/
def runCommand (i : Instr) (effect : State → State) (s : State) : Host.Outcome State Fault Refusal :=
  if s.busy then .next s
  else
    match startError i (beginCommand (encode i) s) with
    | some e => .next (failAtStart e (beginCommand (encode i) s))
    | none => .next (effect (beginCommand (encode i) s))

/-- Steps 8 to 10 of R94: the engine is set to run the command from its first stage. -/
def acceptCommand (i : Instr) (s : State) : State :=
  { s with busy := true, curkey := if loadsCurkey i then s.key.take 16 else s.curkey, stage := firstStage i }

/-- The sequencer view of `HostWrite(0x000, w)` while `BUSY = 0`: the whole start sequence of R94 as one atomic
action. -/
def startCommand (w : Word) (s : State) : State :=
  match decode w with
  | .error _ => failAtStart illegalCommand (beginCommand w s)
  | .ok i =>
    match startError i (beginCommand w s) with
    | some e => failAtStart e (beginCommand w s)
    | none => acceptCommand i (beginCommand w s)

/-- What `CLEAR` zeroises (R271): every operand register. -/
def clearOperands (s : State) : State :=
  { s with key := zeros 24, klen := 0#5, ksn := zeros 10, iv := zeros 8, din := zeros s.params.dataMax, dlen := 0#11 }

/-! ### The register map -/

/-- The register map (R62): the register at a word's address, or none where nothing is mapped. The whole
`DIN` and `DOUT` ranges are mapped, whatever `DATA_MAX` (DEDUCED, log entry 18). -/
def mapAddr (a : Nat) : Option MapReg :=
  if a = 0x000 then some .cmd
  else if a = 0x004 then some .status
  else if a = 0x008 then some .errcode
  else if a = 0x00C then some .klen
  else if a = 0x010 then some .dlen
  else if a = 0x014 then some .olen
  else if a = 0x018 then some .stage
  else if a = 0x01C then some .sr
  else if 0x020 ≤ a ∧ a ≤ 0x037 then some (.key (a - 0x020))
  else if 0x040 ≤ a ∧ a ≤ 0x04B then some (.ksn (a - 0x040))
  else if 0x050 ≤ a ∧ a ≤ 0x057 then some (.iv (a - 0x050))
  else if 0x400 ≤ a ∧ a ≤ 0x7FF then some (.din (a - 0x400))
  else if 0x800 ≤ a ∧ a ≤ 0xC0F then some (.dout (a - 0x800))
  else none

/-- R68: an access is admitted when it is 32 bits wide, at a multiple of 4, at a mapped address. -/
def admittedReg (size addr : Nat) : Except Refusal MapReg :=
  if size ≠ 4 then .error (.notAWordAccess size)
  else if addr % 4 ≠ 0 then .error (.misalignedAddress addr)
  else
    match mapAddr addr with
    | some r => .ok r
    | none => .error (.unmappedAddress addr)

/-- The value a register shows to a host read (R62, R67): a narrow register in the low bits of its word, an array packed
as R64 says, and zero for `KEY` (R22). -/
def regWord (s : State) : MapReg → Word
  | .cmd => s.cmd
  | .status => statusWord s
  | .errcode => s.errcode.setWidth 32
  | .klen => s.klen.setWidth 32
  | .dlen => s.dlen.setWidth 32
  | .olen => s.olen.setWidth 32
  | .stage => (stageCode s.stage).setWidth 32
  | .sr => s.sr.setWidth 32
  | .key _ => 0#32
  | .ksn off => readWord s.ksn off
  | .iv off => readWord s.iv off
  | .din off => readWord s.din off
  | .dout off => readWord s.dout off

/-- R66: while `BUSY = 1` a host read of any other mapped address returns zero. -/
def readableWhileBusy : MapReg → Bool
  | .cmd => true
  | .status => true
  | .errcode => false
  | .klen => false
  | .dlen => false
  | .olen => false
  | .stage => true
  | .sr => true
  | .key _ => false
  | .ksn _ => false
  | .iv _ => false
  | .din _ => false
  | .dout _ => false

/-- The value `HostRead` returns (R66, R67). -/
def readValue (s : State) (r : MapReg) : Word :=
  if s.busy && !readableWhileBusy r then 0#32 else regWord s r

/-- A write while `BUSY = 0` to a register other than `CMD` (R67): a read-write register stores the value, the low bits
for a narrow one; a write to a read-only register is ignored. -/
def storeReg (r : MapReg) (v : Word) (s : State) : State :=
  match r with
  | .cmd => s
  | .status => s
  | .errcode => s
  | .klen => { s with klen := v.setWidth 5 }
  | .dlen => { s with dlen := v.setWidth 11 }
  | .olen => s
  | .stage => s
  | .sr => s
  | .key off => { s with key := writeWord s.key off v }
  | .ksn off => { s with ksn := writeWord s.ksn off v }
  | .iv off => { s with iv := writeWord s.iv off v }
  | .din off => { s with din := writeWord s.din off v }
  | .dout _ => s

/-- `HostWrite` of a mapped register (R66, R67): ignored while `BUSY = 1`; a write to `CMD` starts a command; every other
write stores its value and does nothing more. -/
def writeValue (r : MapReg) (v : Word) (s : State) : State :=
  if s.busy then s
  else
    match r with
    | .cmd => startCommand v s
    | r => storeReg r v s

/-- `HostRead(addr)` as an event: the value joins the values returned to the host; no read has a side effect on the
hardware (R67). -/
def hostRead (size addr : Nat) (s : State) : Host.Outcome State Fault Refusal :=
  match admittedReg size addr with
  | .error r => .refused r
  | .ok r => .next { s with returned := s.returned ++ [(addr, readValue s r)] }

/-- `HostWrite(addr, v)` as an event, in the sequencer view. -/
def hostWrite (size addr : Nat) (v : Word) (s : State) : Host.Outcome State Fault Refusal :=
  match admittedReg size addr with
  | .error r => .refused r
  | .ok r => .next (writeValue r v s)

/-- Reset (R310, R313): "at any time and in any state, every register takes the value given in R40". The parameters are
no registers, and what the outside world does next and has been told is no hardware: the three model fields stay (DESIGN CHOICE, log entry 13). -/
def applyReset (s : State) : State :=
  { State.resetOf s.params with agenda := s.agenda, returned := s.returned }

end Sys2Proof.Machine
end

