-- ==== Sys2Proof/Machine/ByteOps.lean ====
section
/-! DEFINITION. The byte-sequence commands `XOR` and `AND` (R115, R116): `data` is `a`, `key` is `b`. -/

namespace Sys2Proof.Machine

/-- `XOR` (R115). `DLEN = 0` gives the bytes of `KEY`, as the rule says. -/
def execXor (s : State) : Host.Outcome State Fault Refusal :=
  runCommand .xor (fun t => deliver (xorBytes (dataOperand t) (keyOperand t)) t) s

/-- `AND` (R116). -/
def execAnd (s : State) : Host.Outcome State Fault Refusal :=
  runCommand .and (fun t => deliver (andBytes (dataOperand t) (keyOperand t)) t) s

end Sys2Proof.Machine
end

