-- ==== Sys2Proof/Machine/Housekeeping.lean ====
section
/-! DEFINITION. The commands that compute nothing: `NOP` and `CLEAR` (R270, R271, R293). -/

namespace Sys2Proof.Machine

/-- `NOP` (R270): as every started command it clears `DONE`, `ERR`, `ERRCODE`, `OLEN` and `DOUT`; the operands stay. -/
def execNop (s : State) : Host.Outcome State Fault Refusal := runCommand .nop (fun t => deliver [] t) s

/-- `CLEAR` (R271): the operand registers are zeroised. -/
def execClear (s : State) : Host.Outcome State Fault Refusal :=
  runCommand .clear (fun t => deliver [] (clearOperands t)) s

end Sys2Proof.Machine
end

