-- ==== Sys2Proof/Machine/Aes.lean ====
section
/-! DEFINITION. The AES-128 block functions (R180 to R191). The state is the 16-byte block itself, column by column:
`s[r][c]` is byte `r + 4c` (R181). -/

namespace Sys2Proof.Machine

/-- `xtime(a)` (R180): multiplication by `x`, reduced. -/
def xtime (a : Byte) : Byte := if a.getLsbD 7 then (a <<< 1) ^^^ 0x1B#8 else a <<< 1

/-- `xtime` applied `n` times to `a` (R180). -/
def xtimes : Nat → Byte → Byte
  | 0, a => a
  | n + 1, a => xtime (xtimes n a)

/-- The field product `mul(a, b)` (R180): the XOR, over the set bits `i` of `b`, of `xtime` applied `i` times
to `a`. -/
def gmul (a b : Byte) : Byte :=
  (List.range 8).foldl (fun acc i => if b.getLsbD i then acc ^^^ xtimes i a else acc) 0#8

/-- `SBOX` (R183), row `a div 16`, column `a mod 16`. -/
def tableSBOX : List (List Byte) := [
   [0x63, 0x7C, 0x77, 0x7B, 0xF2, 0x6B, 0x6F, 0xC5, 0x30, 0x01, 0x67, 0x2B, 0xFE, 0xD7, 0xAB, 0x76],
   [0xCA, 0x82, 0xC9, 0x7D, 0xFA, 0x59, 0x47, 0xF0, 0xAD, 0xD4, 0xA2, 0xAF, 0x9C, 0xA4, 0x72, 0xC0],
   [0xB7, 0xFD, 0x93, 0x26, 0x36, 0x3F, 0xF7, 0xCC, 0x34, 0xA5, 0xE5, 0xF1, 0x71, 0xD8, 0x31, 0x15],
   [0x04, 0xC7, 0x23, 0xC3, 0x18, 0x96, 0x05, 0x9A, 0x07, 0x12, 0x80, 0xE2, 0xEB, 0x27, 0xB2, 0x75],
   [0x09, 0x83, 0x2C, 0x1A, 0x1B, 0x6E, 0x5A, 0xA0, 0x52, 0x3B, 0xD6, 0xB3, 0x29, 0xE3, 0x2F, 0x84],
   [0x53, 0xD1, 0x00, 0xED, 0x20, 0xFC, 0xB1, 0x5B, 0x6A, 0xCB, 0xBE, 0x39, 0x4A, 0x4C, 0x58, 0xCF],
   [0xD0, 0xEF, 0xAA, 0xFB, 0x43, 0x4D, 0x33, 0x85, 0x45, 0xF9, 0x02, 0x7F, 0x50, 0x3C, 0x9F, 0xA8],
   [0x51, 0xA3, 0x40, 0x8F, 0x92, 0x9D, 0x38, 0xF5, 0xBC, 0xB6, 0xDA, 0x21, 0x10, 0xFF, 0xF3, 0xD2],
   [0xCD, 0x0C, 0x13, 0xEC, 0x5F, 0x97, 0x44, 0x17, 0xC4, 0xA7, 0x7E, 0x3D, 0x64, 0x5D, 0x19, 0x73],
   [0x60, 0x81, 0x4F, 0xDC, 0x22, 0x2A, 0x90, 0x88, 0x46, 0xEE, 0xB8, 0x14, 0xDE, 0x5E, 0x0B, 0xDB],
   [0xE0, 0x32, 0x3A, 0x0A, 0x49, 0x06, 0x24, 0x5C, 0xC2, 0xD3, 0xAC, 0x62, 0x91, 0x95, 0xE4, 0x79],
   [0xE7, 0xC8, 0x37, 0x6D, 0x8D, 0xD5, 0x4E, 0xA9, 0x6C, 0x56, 0xF4, 0xEA, 0x65, 0x7A, 0xAE, 0x08],
   [0xBA, 0x78, 0x25, 0x2E, 0x1C, 0xA6, 0xB4, 0xC6, 0xE8, 0xDD, 0x74, 0x1F, 0x4B, 0xBD, 0x8B, 0x8A],
   [0x70, 0x3E, 0xB5, 0x66, 0x48, 0x03, 0xF6, 0x0E, 0x61, 0x35, 0x57, 0xB9, 0x86, 0xC1, 0x1D, 0x9E],
   [0xE1, 0xF8, 0x98, 0x11, 0x69, 0xD9, 0x8E, 0x94, 0x9B, 0x1E, 0x87, 0xE9, 0xCE, 0x55, 0x28, 0xDF],
   [0x8C, 0xA1, 0x89, 0x0D, 0xBF, 0xE6, 0x42, 0x68, 0x41, 0x99, 0x2D, 0x0F, 0xB0, 0x54, 0xBB, 0x16]]

/-- `INVSBOX` (R188), in the same layout. -/
def tableINVSBOX : List (List Byte) := [
   [0x52, 0x09, 0x6A, 0xD5, 0x30, 0x36, 0xA5, 0x38, 0xBF, 0x40, 0xA3, 0x9E, 0x81, 0xF3, 0xD7, 0xFB],
   [0x7C, 0xE3, 0x39, 0x82, 0x9B, 0x2F, 0xFF, 0x87, 0x34, 0x8E, 0x43, 0x44, 0xC4, 0xDE, 0xE9, 0xCB],
   [0x54, 0x7B, 0x94, 0x32, 0xA6, 0xC2, 0x23, 0x3D, 0xEE, 0x4C, 0x95, 0x0B, 0x42, 0xFA, 0xC3, 0x4E],
   [0x08, 0x2E, 0xA1, 0x66, 0x28, 0xD9, 0x24, 0xB2, 0x76, 0x5B, 0xA2, 0x49, 0x6D, 0x8B, 0xD1, 0x25],
   [0x72, 0xF8, 0xF6, 0x64, 0x86, 0x68, 0x98, 0x16, 0xD4, 0xA4, 0x5C, 0xCC, 0x5D, 0x65, 0xB6, 0x92],
   [0x6C, 0x70, 0x48, 0x50, 0xFD, 0xED, 0xB9, 0xDA, 0x5E, 0x15, 0x46, 0x57, 0xA7, 0x8D, 0x9D, 0x84],
   [0x90, 0xD8, 0xAB, 0x00, 0x8C, 0xBC, 0xD3, 0x0A, 0xF7, 0xE4, 0x58, 0x05, 0xB8, 0xB3, 0x45, 0x06],
   [0xD0, 0x2C, 0x1E, 0x8F, 0xCA, 0x3F, 0x0F, 0x02, 0xC1, 0xAF, 0xBD, 0x03, 0x01, 0x13, 0x8A, 0x6B],
   [0x3A, 0x91, 0x11, 0x41, 0x4F, 0x67, 0xDC, 0xEA, 0x97, 0xF2, 0xCF, 0xCE, 0xF0, 0xB4, 0xE6, 0x73],
   [0x96, 0xAC, 0x74, 0x22, 0xE7, 0xAD, 0x35, 0x85, 0xE2, 0xF9, 0x37, 0xE8, 0x1C, 0x75, 0xDF, 0x6E],
   [0x47, 0xF1, 0x1A, 0x71, 0x1D, 0x29, 0xC5, 0x89, 0x6F, 0xB7, 0x62, 0x0E, 0xAA, 0x18, 0xBE, 0x1B],
   [0xFC, 0x56, 0x3E, 0x4B, 0xC6, 0xD2, 0x79, 0x20, 0x9A, 0xDB, 0xC0, 0xFE, 0x78, 0xCD, 0x5A, 0xF4],
   [0x1F, 0xDD, 0xA8, 0x33, 0x88, 0x07, 0xC7, 0x31, 0xB1, 0x12, 0x10, 0x59, 0x27, 0x80, 0xEC, 0x5F],
   [0x60, 0x51, 0x7F, 0xA9, 0x19, 0xB5, 0x4A, 0x0D, 0x2D, 0xE5, 0x7A, 0x9F, 0x93, 0xC9, 0x9C, 0xEF],
   [0xA0, 0xE0, 0x3B, 0x4D, 0xAE, 0x2A, 0xF5, 0xB0, 0xC8, 0xEB, 0xBB, 0x3C, 0x83, 0x53, 0x99, 0x61],
   [0x17, 0x2B, 0x04, 0x7E, 0xBA, 0x77, 0xD6, 0x26, 0xE1, 0x69, 0x14, 0x63, 0x55, 0x21, 0x0C, 0x7D]]

/-- The entry of a 256-entry table for the byte `a` (R183). -/
def tableByte (t : List (List Byte)) (a : Byte) : Byte := (t.getD (a.toNat / 16) []).getD (a.toNat % 16) 0#8

/-- `SBOX[a]` (R183). -/
def sbox (a : Byte) : Byte := tableByte tableSBOX a

/-- `INVSBOX[a]` (R188). -/
def invSbox (a : Byte) : Byte := tableByte tableINVSBOX a

/-- `s[r][c]` of a state (R181); the column is taken modulo 4. -/
def stateByte (s : List Byte) (r c : Nat) : Byte := s.getD (r + 4 * (c % 4)) 0#8

/-- The state whose `s[r][c]` is `f r c` (R181). -/
def stateOf (f : Nat → Nat → Byte) : List Byte := (List.range 16).map fun k => f (k % 4) (k / 4)

/-- `SubBytes` (R182). -/
def subBytes (s : List Byte) : List Byte := s.map sbox

/-- `InvSubBytes` (R182). -/
def invSubBytes (s : List Byte) : List Byte := s.map invSbox

/-- `ShiftRows` (R184): `s'[r][c] = s[r][(c + r) mod 4]`. -/
def shiftRows (s : List Byte) : List Byte := stateOf fun r c => stateByte s r (c + r)

/-- `InvShiftRows` (R184): `s'[r][c] = s[r][(c - r) mod 4]`. -/
def invShiftRows (s : List Byte) : List Byte := stateOf fun r c => stateByte s r (c + 4 - r)

/-- A column transformation with the coefficients `m0 m1 m2 m3` (R185): row `r` of the result is the XOR over `j` of
`mul(mj, a((r + j) mod 4))`, the field product being commutative. -/
def mixWith (m0 m1 m2 m3 : Byte) (s : List Byte) : List Byte :=
  stateOf fun r c =>
    gmul (stateByte s r c) m0 ^^^ gmul (stateByte s ((r + 1) % 4) c) m1 ^^^ gmul (stateByte s ((r + 2) % 4) c) m2 ^^^
      gmul (stateByte s ((r + 3) % 4) c) m3

/-- `MixColumns` (R185): coefficients `02 03 01 01`. -/
def mixColumns (s : List Byte) : List Byte := mixWith 0x02#8 0x03#8 0x01#8 0x01#8 s

/-- `InvMixColumns` (R185): coefficients `0E 0B 0D 09`. -/
def invMixColumns (s : List Byte) : List Byte := mixWith 0x0E#8 0x0B#8 0x0D#8 0x09#8 s

/-- `AddRoundKey(s, rk)` (R186). -/
def addRoundKey (s rk : List Byte) : List Byte := s.zipWith (fun x y => x ^^^ y) rk

/-- The first byte of `Rcon[j]`, `j` from 1 to 10 (R187). -/
def rconByte (j : Nat) : Byte :=
  ([0x01, 0x02, 0x04, 0x08, 0x10, 0x20, 0x40, 0x80, 0x1B, 0x36] : List Byte).getD (j - 1) 0#8

/-- `SubWord(RotWord(t)) xor Rcon[j]` (R187). -/
def keyCore (j : Nat) (t : List Byte) : List Byte :=
  ((t.drop 1 ++ t.take 1).map sbox).zipWith (fun x y => x ^^^ y) [rconByte j, 0#8, 0#8, 0#8]

/-- The next word `w[i]` from the words before it (R187). -/
def nextKeyWord (i : Nat) (ws : List (List Byte)) : List Byte :=
  let t := ws.getD (i - 1) []
  let t' := if i % 4 = 0 then keyCore (i / 4) t else t
  (ws.getD (i - 4) []).zipWith (fun x y => x ^^^ y) t'

/-- The words `w[0]` to `w[n+3]` (R187). -/
def aesKeyWords (k : List Byte) : Nat → List (List Byte)
  | 0 => [k.take 4, (k.drop 4).take 4, (k.drop 8).take 4, (k.drop 12).take 4]
  | n + 1 =>
    let ws := aesKeyWords k n
    ws ++ [nextKeyWord (n + 4) ws]

/-- The eleven round keys `rk[0]` to `rk[10]` (R187). -/
def aesRoundKeys (k : List Byte) : List (List Byte) :=
  (List.range 11).map fun n => (((aesKeyWords k 40).drop (4 * n)).take 4).flatten

/-- The full rounds of `AES_E` and its last round (R190), one for each round key in turn. -/
def aesRounds : List (List Byte) → List Byte → List Byte
  | [], s => s
  | [rk], s => addRoundKey (shiftRows (subBytes s)) rk
  | rk :: rest, s => aesRounds rest (addRoundKey (mixColumns (shiftRows (subBytes s))) rk)

/-- `AES_E(k, x)` (R190). -/
def aesE (k x : List Byte) : List Byte :=
  match aesRoundKeys k with
  | [] => x
  | rk0 :: rest => aesRounds rest (addRoundKey x rk0)

/-- The rounds of `AES_D` (R191), one for each round key in turn. -/
def aesInvRounds : List (List Byte) → List Byte → List Byte
  | [], s => s
  | [rk], s => addRoundKey (invSubBytes (invShiftRows s)) rk
  | rk :: rest, s => aesInvRounds rest (invMixColumns (addRoundKey (invSubBytes (invShiftRows s)) rk))

/-- `AES_D(k, y)` (R191): the same round keys in the reverse order. -/
def aesD (k y : List Byte) : List Byte :=
  match (aesRoundKeys k).reverse with
  | [] => y
  | rk10 :: rest => aesInvRounds rest (addRoundKey y rk10)

end Sys2Proof.Machine
end

