-- ==== Sys2Proof/Machine/Des.lean ====
section
/-! DEFINITION. The DES and 3DES block functions (R160 to R173). A bit string is a bit vector whose bit `n`, counted
from 1 at the left as R160 does, is `getMsbD (n - 1)`. -/

namespace Sys2Proof.Machine

/-- R161: the permutation table `t` applied to `x`; bit `i` of the result is bit `t[i]` of `x`. -/
def permute {n : Nat} (m : Nat) (t : List Nat) (x : BitVec n) : BitVec m :=
  BitVec.ofNat m (t.foldl (fun acc i => 2 * acc + (x.getMsbD (i - 1)).toNat) 0)

/-- The initial permutation `IP` (R162). -/
def tableIP : List Nat := [
   58, 50, 42, 34, 26, 18, 10,  2,
   60, 52, 44, 36, 28, 20, 12,  4,
   62, 54, 46, 38, 30, 22, 14,  6,
   64, 56, 48, 40, 32, 24, 16,  8,
   57, 49, 41, 33, 25, 17,  9,  1,
   59, 51, 43, 35, 27, 19, 11,  3,
   61, 53, 45, 37, 29, 21, 13,  5,
   63, 55, 47, 39, 31, 23, 15,  7]

/-- The final permutation `FP`, the inverse of `IP` (R162). -/
def tableFP : List Nat := [
   40,  8, 48, 16, 56, 24, 64, 32,
   39,  7, 47, 15, 55, 23, 63, 31,
   38,  6, 46, 14, 54, 22, 62, 30,
   37,  5, 45, 13, 53, 21, 61, 29,
   36,  4, 44, 12, 52, 20, 60, 28,
   35,  3, 43, 11, 51, 19, 59, 27,
   34,  2, 42, 10, 50, 18, 58, 26,
   33,  1, 41,  9, 49, 17, 57, 25]

/-- The expansion `E`, 32 bits to 48 (R163). -/
def tableE : List Nat := [
   32,  1,  2,  3,  4,  5,
    4,  5,  6,  7,  8,  9,
    8,  9, 10, 11, 12, 13,
   12, 13, 14, 15, 16, 17,
   16, 17, 18, 19, 20, 21,
   20, 21, 22, 23, 24, 25,
   24, 25, 26, 27, 28, 29,
   28, 29, 30, 31, 32,  1]

/-- The permutation `P` of the round function (R163). -/
def tableP : List Nat := [
   16,  7, 20, 21, 29, 12, 28, 17,
    1, 15, 23, 26,  5, 18, 31, 10,
    2,  8, 24, 14, 32, 27,  3,  9,
   19, 13, 30,  6, 22, 11,  4, 25]

/-- The substitution boxes `S1` to `S8`, four rows of 16 entries each (R164). -/
def sBoxes : List (List (List Nat)) := [
  /- S1 -/
  [[14,  4, 13,  1,  2, 15, 11,  8,  3, 10,  6, 12,  5,  9,  0,  7],
   [ 0, 15,  7,  4, 14,  2, 13,  1, 10,  6, 12, 11,  9,  5,  3,  8],
   [ 4,  1, 14,  8, 13,  6,  2, 11, 15, 12,  9,  7,  3, 10,  5,  0],
   [15, 12,  8,  2,  4,  9,  1,  7,  5, 11,  3, 14, 10,  0,  6, 13]],
  /- S2 -/
  [[15,  1,  8, 14,  6, 11,  3,  4,  9,  7,  2, 13, 12,  0,  5, 10],
   [ 3, 13,  4,  7, 15,  2,  8, 14, 12,  0,  1, 10,  6,  9, 11,  5],
   [ 0, 14,  7, 11, 10,  4, 13,  1,  5,  8, 12,  6,  9,  3,  2, 15],
   [13,  8, 10,  1,  3, 15,  4,  2, 11,  6,  7, 12,  0,  5, 14,  9]],
  /- S3 -/
  [[10,  0,  9, 14,  6,  3, 15,  5,  1, 13, 12,  7, 11,  4,  2,  8],
   [13,  7,  0,  9,  3,  4,  6, 10,  2,  8,  5, 14, 12, 11, 15,  1],
   [13,  6,  4,  9,  8, 15,  3,  0, 11,  1,  2, 12,  5, 10, 14,  7],
   [ 1, 10, 13,  0,  6,  9,  8,  7,  4, 15, 14,  3, 11,  5,  2, 12]],
  /- S4 -/
  [[ 7, 13, 14,  3,  0,  6,  9, 10,  1,  2,  8,  5, 11, 12,  4, 15],
   [13,  8, 11,  5,  6, 15,  0,  3,  4,  7,  2, 12,  1, 10, 14,  9],
   [10,  6,  9,  0, 12, 11,  7, 13, 15,  1,  3, 14,  5,  2,  8,  4],
   [ 3, 15,  0,  6, 10,  1, 13,  8,  9,  4,  5, 11, 12,  7,  2, 14]],
  /- S5 -/
  [[ 2, 12,  4,  1,  7, 10, 11,  6,  8,  5,  3, 15, 13,  0, 14,  9],
   [14, 11,  2, 12,  4,  7, 13,  1,  5,  0, 15, 10,  3,  9,  8,  6],
   [ 4,  2,  1, 11, 10, 13,  7,  8, 15,  9, 12,  5,  6,  3,  0, 14],
   [11,  8, 12,  7,  1, 14,  2, 13,  6, 15,  0,  9, 10,  4,  5,  3]],
  /- S6 -/
  [[12,  1, 10, 15,  9,  2,  6,  8,  0, 13,  3,  4, 14,  7,  5, 11],
   [10, 15,  4,  2,  7, 12,  9,  5,  6,  1, 13, 14,  0, 11,  3,  8],
   [ 9, 14, 15,  5,  2,  8, 12,  3,  7,  0,  4, 10,  1, 13, 11,  6],
   [ 4,  3,  2, 12,  9,  5, 15, 10, 11, 14,  1,  7,  6,  0,  8, 13]],
  /- S7 -/
  [[ 4, 11,  2, 14, 15,  0,  8, 13,  3, 12,  9,  7,  5, 10,  6,  1],
   [13,  0, 11,  7,  4,  9,  1, 10, 14,  3,  5, 12,  2, 15,  8,  6],
   [ 1,  4, 11, 13, 12,  3,  7, 14, 10, 15,  6,  8,  0,  5,  9,  2],
   [ 6, 11, 13,  8,  1,  4, 10,  7,  9,  5,  0, 15, 14,  2,  3, 12]],
  /- S8 -/
  [[13,  2,  8,  4,  6, 15, 11,  1, 10,  9,  3, 14,  5,  0, 12,  7],
   [ 1, 15, 13,  8, 10,  3,  7,  4, 12,  5,  6, 11,  0, 14,  9,  2],
   [ 7, 11,  4,  1,  9, 12, 14,  2,  0,  6, 10, 13, 15,  3,  5,  8],
   [ 2,  1, 14,  7,  4, 10,  8, 13, 15, 12,  9,  0,  3,  5,  6, 11]]]

/-- The key permutation `PC1`, 64 bits to 56; the parity bits of the key are never selected (R165). -/
def tablePC1 : List Nat := [
   57, 49, 41, 33, 25, 17,  9,
    1, 58, 50, 42, 34, 26, 18,
   10,  2, 59, 51, 43, 35, 27,
   19, 11,  3, 60, 52, 44, 36,
   63, 55, 47, 39, 31, 23, 15,
    7, 62, 54, 46, 38, 30, 22,
   14,  6, 61, 53, 45, 37, 29,
   21, 13,  5, 28, 20, 12,  4]

/-- The key permutation `PC2`, 56 bits to 48 (R165). -/
def tablePC2 : List Nat := [
   14, 17, 11, 24,  1,  5,
    3, 28, 15,  6, 21, 10,
   23, 19, 12,  4, 26,  8,
   16,  7, 27, 20, 13,  2,
   41, 52, 31, 37, 47, 55,
   30, 40, 51, 45, 33, 48,
   44, 49, 39, 56, 34, 53,
   46, 42, 50, 36, 29, 32]

/-- The rotation amounts of rounds 1 to 16 (R166). -/
def keyShifts : List Nat := [1, 1, 2, 2, 2, 2, 2, 2, 1, 2, 2, 2, 2, 2, 2, 1]

/-- The loop of R166: rotate the halves `C` and `D`, take `PC2` of the two. -/
def keySchedule : List Nat → BitVec 28 → BitVec 28 → List (BitVec 48)
  | [], _, _ => []
  | n :: rest, c, d =>
    permute 48 tablePC2 (c.rotateLeft n ++ d.rotateLeft n) :: keySchedule rest (c.rotateLeft n) (d.rotateLeft n)

/-- The sixteen round keys `K1` to `K16` of an 8-byte key (R166). -/
def desRoundKeys (k : BitVec 64) : List (BitVec 48) :=
  let cd : BitVec 56 := permute 56 tablePC1 k
  keySchedule keyShifts (cd.extractLsb' 28 28) (cd.extractLsb' 0 28)

/-- `Si[row][col]` of R167 for the group `b1 b2 b3 b4 b5 b6`: `row = 2*b1 + b6`, `col = 8*b2 + 4*b3 + 2*b4 + b5`.
`i` counts the boxes from 0. -/
def sBoxOut (i : Nat) (b : BitVec 6) : Nat :=
  ((sBoxes.getD i []).getD (2 * (b.extractLsb' 5 1).toNat + (b.extractLsb' 0 1).toNat) []).getD
    (b.extractLsb' 1 4).toNat 0

/-- The round function `f(R, K)` of R167. -/
def desF (r : BitVec 32) (k : BitVec 48) : BitVec 32 :=
  let x : BitVec 48 := permute 48 tableE r ^^^ k
  let o := (List.range 8).foldl (fun acc i => 16 * acc + sBoxOut i (x.extractLsb' (42 - 6 * i) 6)) 0
  permute 32 tableP (BitVec.ofNat 32 o)

/-- The rounds of R168, `Ln = R(n-1)` and `Rn = L(n-1) xor f(R(n-1), Kn)`, one for each round key in turn; the answer
is the last `(L, R)`. -/
def desRounds : List (BitVec 48) → BitVec 32 → BitVec 32 → BitVec 32 × BitVec 32
  | [], l, r => (l, r)
  | k :: rest, l, r => desRounds rest r (l ^^^ desF r k)

/-- R168 under a given order of the round keys: `IP`, the rounds, the halves swapped, `FP`. -/
def desBlock (keys : List (BitVec 48)) (x : BitVec 64) : BitVec 64 :=
  let lr : BitVec 64 := permute 64 tableIP x
  let out := desRounds keys (lr.extractLsb' 32 32) (lr.extractLsb' 0 32)
  permute 64 tableFP (out.2 ++ out.1)

/-- An 8-byte sequence as the 64-bit string of R160. -/
def blockBits (b : List Byte) : BitVec 64 := BitVec.ofNat 64 (val b)

/-- The 8 bytes of a 64-bit string (R160). -/
def bitsBlock (x : BitVec 64) : List Byte := bytesN 8 x.toNat

/-- `DES_E(k, x)` (R168). -/
def desE (k x : List Byte) : List Byte := bitsBlock (desBlock (desRoundKeys (blockBits k)) (blockBits x))

/-- `DES_D(k, y)` (R169): the round keys in the reverse order. -/
def desD (k y : List Byte) : List Byte := bitsBlock (desBlock (desRoundKeys (blockBits k)).reverse (blockBits y))

/-- `K1`, `K2`, `K3` of R171: third `n` (0, 1 or 2) of a 24-byte key. -/
def keyThird (n : Nat) (k : List Byte) : List Byte := (k.drop (8 * n)).take 8

/-- `TDES_E(k, x)` (R171): encrypt, decrypt, encrypt. -/
def tdesE (k x : List Byte) : List Byte := desE (keyThird 2 k) (desD (keyThird 1 k) (desE (keyThird 0 k) x))

/-- `TDES_D(k, y)` (R172). -/
def tdesD (k y : List Byte) : List Byte := desD (keyThird 0 k) (desE (keyThird 1 k) (desD (keyThird 2 k) y))

end Sys2Proof.Machine
end

