-- ==== Sys2Proof/Machine/Cipher.lean ====
section
/-! DEFINITION. The cipher engine: the algorithms (R131), key expansion (R134), ECB (R137), PKCS7 (R138, R139),
`encrypt` and `decrypt` (R140, R141), and the commands `ENC.*`, `DEC.*`, `EXPAND3DES` (R143 to R149). No function here
reads the IV (R150). -/

namespace Sys2Proof.Machine

/-- The key length of an algorithm in bytes (R131). -/
def keyLength : Alg → Nat
  | .des => 8
  | .tdes => 24
  | .aes => 16

/-- The block width `B` of an algorithm in bytes (R131). -/
def blockWidth : Alg → Nat
  | .des => 8
  | .tdes => 8
  | .aes => 16

/-- The block encryption of an algorithm (R131). -/
def blockEncrypt : Alg → List Byte → List Byte → List Byte
  | .des => desE
  | .tdes => tdesE
  | .aes => aesE

/-- The block decryption of an algorithm (R131). -/
def blockDecrypt : Alg → List Byte → List Byte → List Byte
  | .des => desD
  | .tdes => tdesD
  | .aes => aesD

/-- `expand3DES(k)` (R134): a 24-byte key unchanged, otherwise `e[i] = k[i mod len(k)]`. No command reaches it with
another length than 1 to 24 (DEDUCED, log entry 17). -/
def expand3DES (k : List Byte) : List Byte :=
  if k.length = 24 then k else (List.range 24).map fun i => k.getD (i % k.length) 0#8

/-- `ecb(f, B, d)` on `m` blocks (R137): `f` on each `B`-byte block independently. -/
def ecbBlocks (f : List Byte → List Byte) (b : Nat) : Nat → List Byte → List Byte
  | 0, _ => []
  | m + 1, d => f (d.take b) ++ ecbBlocks f b m (d.drop b)

/-- `ecb(f, B, d)` (R137), for `len(d)` a multiple of `B`. -/
def ecb (f : List Byte → List Byte) (b : Nat) (d : List Byte) : List Byte := ecbBlocks f b (d.length / b) d

/-- `pkcs7_pad(d, B)` (R138). -/
def pkcs7Pad (d : List Byte) (b : Nat) : List Byte :=
  let p := b - d.length % b
  d ++ List.replicate p (BitVec.ofNat 8 p)

/-- `pkcs7_unpad(d, B)` (R139); none where it fails. -/
def pkcs7Unpad (d : List Byte) (b : Nat) : Option (List Byte) :=
  let p := (d.getD (d.length - 1) 0#8).toNat
  if 1 ≤ p ∧ p ≤ b ∧ d.drop (d.length - p) = List.replicate p (BitVec.ofNat 8 p) then some (d.take (d.length - p))
  else none

/-- The second line of `encrypt` (R140): PKCS7 padding, then the block encryption on each block. It is all that is left
of `encrypt` where the key has the algorithm's length (DEDUCED, log entry 12). -/
def ecbEncrypt (alg : Alg) (key data : List Byte) : List Byte :=
  ecb (blockEncrypt alg key) (blockWidth alg) (pkcs7Pad data (blockWidth alg))

/-- `encrypt(data, key, alg)` (R140). -/
def encrypt (alg : Alg) (key data : List Byte) : Except Err (List Byte) :=
  if key.length ≠ keyLength alg then .error (cipherFailed 1#8) else .ok (ecbEncrypt alg key data)

/-- `decrypt(data, key, alg)` (R141), with the parameter `DEC_UNPAD`. -/
def decrypt (unpad : Bool) (alg : Alg) (key data : List Byte) : Except Err (List Byte) :=
  if key.length ≠ keyLength alg then .error (cipherFailed 1#8)
  else if data.length = 0 ∨ data.length % blockWidth alg ≠ 0 then .error (cipherFailed 2#8)
  else
    let d := ecb (blockDecrypt alg key) (blockWidth alg) data
    if unpad then
      match pkcs7Unpad d (blockWidth alg) with
      | some r => .ok r
      | none => .error (cipherFailed 3#8)
    else .ok d

/-- `encrypt(data, key, alg)` of the operand registers: what `ENC.*` computes (R143 to R145). -/
def encResult (alg : Alg) (s : State) : Except Err (List Byte) := encrypt alg (keyOperand s) (dataOperand s)

/-- `decrypt(data, key, alg)` of the operand registers: what `DEC.*` computes (R146 to R148). -/
def decResult (alg : Alg) (s : State) : Except Err (List Byte) :=
  decrypt s.params.decUnpad alg (keyOperand s) (dataOperand s)

/-- `ENC.DES` (R143). -/
def execEncDes (s : State) : Host.Outcome State Fault Refusal :=
  runCommand .encDes (fun t => conclude (encResult .des t) t) s

/-- `ENC.TDES` (R144). A shorter key is not expanded. -/
def execEncTdes (s : State) : Host.Outcome State Fault Refusal :=
  runCommand .encTdes (fun t => conclude (encResult .tdes t) t) s

/-- `ENC.AES` (R145). -/
def execEncAes (s : State) : Host.Outcome State Fault Refusal :=
  runCommand .encAes (fun t => conclude (encResult .aes t) t) s

/-- `DEC.DES` (R146). -/
def execDecDes (s : State) : Host.Outcome State Fault Refusal :=
  runCommand .decDes (fun t => conclude (decResult .des t) t) s

/-- `DEC.TDES` (R147). -/
def execDecTdes (s : State) : Host.Outcome State Fault Refusal :=
  runCommand .decTdes (fun t => conclude (decResult .tdes t) t) s

/-- `DEC.AES` (R148). -/
def execDecAes (s : State) : Host.Outcome State Fault Refusal :=
  runCommand .decAes (fun t => conclude (decResult .aes t) t) s

/-- `EXPAND3DES` (R149). `KEY` itself is not changed. -/
def execExpand3des (s : State) : Host.Outcome State Fault Refusal :=
  runCommand .expand3des (fun t => deliver (expand3DES (keyOperand t)) t) s

end Sys2Proof.Machine
end

