-- ==== Sys2Proof/Machine/Dukpt.lean ====
section
/-! DEFINITION. The DUKPT engine in the functional view: the constants (R97, R200), the derivation functions
(R201 to R213) and the commands `GETCTR`, `DERIVE_IPEK`, `DERIVE_WK`, `DERIVE_SK`, `DERIVE_KEY`, `GEN_KEY`, `ENC_REG`
(R214 to R220). Where a rule writes `encrypt` under a key that has the algorithm's length by construction, this file
writes `ecbEncrypt`, which is `encrypt` there (R140: "With a key of the right length it cannot fail"). -/

namespace Sys2Proof.Machine

/-- `KSN_MASK10`, 10 bytes (R97). -/
def ksnMask10 : List Byte := bytesN 10 0xFFFFFFFFFFFFFFE00000

/-- `KSN_MASK8`, 8 bytes (R97). -/
def ksnMask8 : List Byte := bytesN 8 0xFFFFFFFFFFE00000

/-- `CTR_MASK`, 3 bytes (R97). -/
def ctrMask : List Byte := bytesN 3 0x1FFFFF

/-- `KEY_MASK`, 16 bytes (R97). -/
def keyMask : List Byte := bytesN 16 0xC0C0C0C000000000C0C0C0C000000000

/-- `DATA_MASK`, 16 bytes (R97). -/
def dataMask : List Byte := bytesN 16 0x0000000000FF00000000000000FF0000

/-- `SR_INIT`, the first value of the shift register (R97). -/
def srInit : BitVec 21 := 0x100000#21

/-- `deriveIPEK(bdk, ksn)` (R201). -/
def deriveIPEK (bdk ksn : List Byte) : List Byte :=
  let expandedBDK := expand3DES bdk
  let maskedKSN := andBytes ksn ksnMask10
  let leftHalf := first8 (ecbEncrypt .tdes expandedBDK maskedKSN)
  let rightKey := expand3DES (xorBytes bdk keyMask)
  let rightHalf := first8 (ecbEncrypt .tdes rightKey maskedKSN)
  leftHalf ++ rightHalf

/-- `getCounterBits(ksn)`, 3 bytes (R205). -/
def getCounterBits (ksn : List Byte) : List Byte := andBytes (low3BytesOf ksn) ctrMask

/-- `baseKSN(ksn)`, 8 bytes (R206). -/
def baseKSN (ksn : List Byte) : List Byte := andBytes (last8 ksn) ksnMask8

/-- `encryptRegister(key16, ksn)`, 8 bytes (R207). -/
def encryptRegister (key16 ksn : List Byte) : List Byte :=
  let top := first8 key16
  let bottom := last8 key16
  let x := xorBytes bottom (last8 ksn)
  let enc := first8 (ecbEncrypt .des top x)
  xorBytes bottom enc

/-- `generateKey(key, ksnPartial)` (R208): the left half comes from the masked key. -/
def generateKey (key ksnPartial : List Byte) : List Byte :=
  let maskedKey := xorBytes key keyMask
  let leftHalf := encryptRegister maskedKey ksnPartial
  let rightHalf := encryptRegister key ksnPartial
  leftHalf ++ rightHalf

/-- The counter as a number: `val(getCounterBits(ksn))` in 21 bits (R35, R210). -/
def counterOf (ksn : List Byte) : BitVec 21 := BitVec.ofNat 21 (val (getCounterBits ksn))

/-- The loop of R210 over the positions `n - 1` down to 0 of the counter, each position's bit `2^(n-1)` in turn. -/
def workingKeyLoop (ctr : BitVec 21) : Nat → BitVec 64 → List Byte → List Byte
  | 0, _, cur => cur
  | n + 1, ksnr, cur =>
    if ctr.getLsbD n then
      let ksnr' := ksnr ||| 1#64 <<< n
      workingKeyLoop ctr n ksnr' (generateKey cur (bytesN 8 ksnr'.toNat))
    else workingKeyLoop ctr n ksnr cur

/-- `deriveWorkingKey(ksn, ipek)` (R210): from bit `0x100000`, position 20, down to bit 1. -/
def deriveWorkingKey (ksn ipek : List Byte) : List Byte :=
  workingKeyLoop (counterOf ksn) 21 (BitVec.ofNat 64 (val (baseKSN ksn))) ipek

/-- `deriveSessionKey(workingKey)` (R213). -/
def deriveSessionKey (workingKey : List Byte) : List Byte :=
  let maskedKey := xorBytes workingKey dataMask
  let expandedMaskedKey := expand3DES maskedKey
  let leftHalf := first8 (ecbEncrypt .tdes expandedMaskedKey (first8 maskedKey))
  let rightHalf := first8 (ecbEncrypt .tdes expandedMaskedKey (last8 maskedKey))
  leftHalf ++ rightHalf

/-- `deriveKey(bdk, ksn)` (R213). -/
def deriveKey (bdk ksn : List Byte) : List Byte := deriveSessionKey (deriveWorkingKey ksn (deriveIPEK bdk ksn))

/-- `GETCTR` (R214). -/
def execGetctr (s : State) : Host.Outcome State Fault Refusal :=
  runCommand .getctr (fun t => deliver (getCounterBits t.ksn) t) s

/-- `DERIVE_IPEK` (R215). -/
def execDeriveIpek (s : State) : Host.Outcome State Fault Refusal :=
  runCommand .deriveIpek (fun t => deliver (deriveIPEK (keyOperand t) t.ksn) t) s

/-- `DERIVE_WK` (R216); `ipek = KEY[0..15]`. -/
def execDeriveWk (s : State) : Host.Outcome State Fault Refusal :=
  runCommand .deriveWk (fun t => deliver (deriveWorkingKey t.ksn (t.key.take 16)) t) s

/-- `DERIVE_SK` (R217); `workingKey = KEY[0..15]`, and `KSN` is not read. -/
def execDeriveSk (s : State) : Host.Outcome State Fault Refusal :=
  runCommand .deriveSk (fun t => deliver (deriveSessionKey (t.key.take 16)) t) s

/-- `DERIVE_KEY` (R218). -/
def execDeriveKey (s : State) : Host.Outcome State Fault Refusal :=
  runCommand .deriveKey (fun t => deliver (deriveKey (keyOperand t) t.ksn) t) s

/-- `GEN_KEY` (R219); no mask is applied to the KSN. -/
def execGenKey (s : State) : Host.Outcome State Fault Refusal :=
  runCommand .genKey (fun t => deliver (generateKey (keyOperand t) t.ksn) t) s

/-- `ENC_REG` (R220). -/
def execEncReg (s : State) : Host.Outcome State Fault Refusal :=
  runCommand .encReg (fun t => deliver (encryptRegister (keyOperand t) t.ksn) t) s

end Sys2Proof.Machine
end

