-- ==== Sys2Proof/Machine/Track.lean ====
section
/-! DEFINITION. The command `DECRYPT_TRACK` in the functional view (R260, R261). -/

namespace Sys2Proof.Machine

/-- `decrypt(data, deriveKey(bdk, ksn), AES-128)` of the operand registers (R260). -/
def trackResult (s : State) : Except Err (List Byte) :=
  decrypt s.params.decUnpad .aes (deriveKey (keyOperand s) s.ksn) (dataOperand s)

/-- `DECRYPT_TRACK` (R260). The session key is never written to `DOUT` (R261). -/
def execDecryptTrack (s : State) : Host.Outcome State Fault Refusal :=
  runCommand .decryptTrack (fun t => conclude (trackResult t) t) s

end Sys2Proof.Machine
end

