-- ==== Sys2Proof/Machine/Dispatch.lean ====
section
/-! DEFINITION. One arm for each command: what `HostWrite(0x000, word)` of it does in the functional view. -/

namespace Sys2Proof.Machine

def exec (i : Instr) (s : State) : Host.Outcome State Fault Refusal :=
  match i with
  | .nop => Sys2Proof.Machine.execNop s
  | .clear => Sys2Proof.Machine.execClear s
  | .encDes => Sys2Proof.Machine.execEncDes s
  | .encTdes => Sys2Proof.Machine.execEncTdes s
  | .encAes => Sys2Proof.Machine.execEncAes s
  | .decDes => Sys2Proof.Machine.execDecDes s
  | .decTdes => Sys2Proof.Machine.execDecTdes s
  | .decAes => Sys2Proof.Machine.execDecAes s
  | .expand3des => Sys2Proof.Machine.execExpand3des s
  | .xor => Sys2Proof.Machine.execXor s
  | .and => Sys2Proof.Machine.execAnd s
  | .getctr => Sys2Proof.Machine.execGetctr s
  | .deriveIpek => Sys2Proof.Machine.execDeriveIpek s
  | .deriveWk => Sys2Proof.Machine.execDeriveWk s
  | .deriveSk => Sys2Proof.Machine.execDeriveSk s
  | .deriveKey => Sys2Proof.Machine.execDeriveKey s
  | .genKey => Sys2Proof.Machine.execGenKey s
  | .encReg => Sys2Proof.Machine.execEncReg s
  | .decryptTrack => Sys2Proof.Machine.execDecryptTrack s

end Sys2Proof.Machine
end

