-- ==== Sys2Proof/Machine/Sequencer.lean ====
section
/-! DEFINITION. The sequencer view: one engine step for each value of (`STAGE`, `SR`) (R230 to R244). A step answers
`none` where the rules give the state no step. -/

namespace Sys2Proof.Machine

/-- The function of its operands that a command of the first row of R231 computes at `EXEC` (R232, R233); none for a
command that has no `EXEC` stage. -/
def execFunction (i : Instr) (s : State) : Option (Except Err (List Byte)) :=
  match i with
  | .nop => some (.ok [])
  | .clear => some (.ok [])
  | .encDes => some (encResult .des s)
  | .encTdes => some (encResult .tdes s)
  | .encAes => some (encResult .aes s)
  | .decDes => some (decResult .des s)
  | .decTdes => some (decResult .tdes s)
  | .decAes => some (decResult .aes s)
  | .expand3des => some (.ok (expand3DES (keyOperand s)))
  | .xor => some (.ok (xorBytes (dataOperand s) (keyOperand s)))
  | .and => some (.ok (andBytes (dataOperand s) (keyOperand s)))
  | .getctr => some (.ok (getCounterBits s.ksn))
  | .deriveIpek => none
  | .deriveWk => none
  | .deriveSk => none
  | .deriveKey => none
  | .genKey => some (.ok (generateKey (keyOperand s) s.ksn))
  | .encReg => some (.ok (encryptRegister (keyOperand s) s.ksn))
  | .decryptTrack => none

/-- `RES <- r`, `RLEN <- len(r)`, `STAGE <- FINISH`. -/
def holdResult (r : List Byte) (s : State) : State :=
  { s with res := r, rlen := BitVec.ofNat 11 r.length, stage := .finish }

/-- A result is held for `FINISH`, an error is noted in `PERR` (R233, R240, R286). -/
def holdOrRaise (r : Except Err (List Byte)) (s : State) : State :=
  match r with
  | .ok bytes => holdResult bytes s
  | .error e => raiseInExecution e s

/-- Step at `STAGE = EXEC` (R232, R233); `CLEAR` zeroises the operand registers here. -/
def stepExec (op : Instr) (s : State) : Option State :=
  match execFunction op s with
  | some r => some (holdOrRaise r (if op = .clear then clearOperands s else s))
  | none => none

/-- Step at `STAGE = IPEK` (R234). -/
def stepIpek (op : Instr) (s : State) : Option State :=
  let s1 := { s with curkey := deriveIPEK (keyOperand s) s.ksn }
  if op = .deriveIpek then some (holdResult s1.curkey s1)
  else if op = .deriveKey ∨ op = .decryptTrack then some { s1 with stage := .wkInit }
  else none

/-- Step at `STAGE = WK_INIT` (R235). `CURKEY` is not changed. -/
def stepWkInit (op : Instr) (s : State) : Option State :=
  if op = .deriveWk ∨ op = .deriveKey ∨ op = .decryptTrack then
    some { s with ctr := counterOf s.ksn, ksnr := BitVec.ofNat 64 (val (baseKSN s.ksn)), sr := srInit, stage := .wkIter }
  else none

/-- The key step of a `WK_ITER` step: R236 where the counter bit `SR` selects is 1, R237 where it is 0. -/
def counterBitStep (s : State) : State :=
  if s.sr &&& s.ctr ≠ 0#21 then
    let ksnr' := s.ksnr ||| s.sr.setWidth 64
    { s with ksnr := ksnr', curkey := generateKey s.curkey (bytesN 8 ksnr'.toNat) }
  else s

/-- The shift that ends every `WK_ITER` step (R238). -/
def shiftStep (op : Instr) (s : State) : Option State :=
  let s1 := { s with sr := s.sr >>> 1 }
  if s1.sr ≠ 0#21 then some s1
  else if op = .deriveWk then some (holdResult s1.curkey s1)
  else if op = .deriveKey ∨ op = .decryptTrack then some { s1 with stage := .session }
  else none

/-- Step at `STAGE = WK_ITER` (R236, R237, R238). -/
def stepWkIter (op : Instr) (s : State) : Option State := shiftStep op (counterBitStep s)

/-- Step at `STAGE = SESSION` (R239). -/
def stepSession (op : Instr) (s : State) : Option State :=
  let s1 := { s with curkey := deriveSessionKey s.curkey }
  if op = .decryptTrack then some { s1 with stage := .track }
  else if op = .deriveSk ∨ op = .deriveKey then some (holdResult s1.curkey s1)
  else none

/-- Step at `STAGE = TRACK` (R240). -/
def stepTrack (op : Instr) (s : State) : Option State :=
  if op = .decryptTrack then some (holdOrRaise (decrypt s.params.decUnpad .aes s.curkey (dataOperand s)) s) else none

/-- What `FINISH` publishes (R244): the pending error, or the result with its length. -/
def publish (s : State) : State :=
  if s.perr ≠ 0#16 then { s with err := true, errcode := s.perr }
  else { s with dout := overlay s.dout (s.res.take s.rlen.toNat), olen := s.rlen }

/-- Step at `STAGE = FINISH` (R244): publish, zeroise the transients, set `DONE`, clear `BUSY`. -/
def stepFinish (s : State) : State :=
  { publish s with
    ctr := 0#21, ksnr := 0#64, curkey := zeros 16, sr := 0#21, res := [], rlen := 0#11, perr := 0#16
    done := true, busy := false, stage := .idle }

/-- The engine's step (R230): only while `BUSY = 1`, and then the one `STAGE` names. `op` is what `CMD` decodes to
(R73: "the engine decodes that stored word and nothing else"). -/
def engineStep (s : State) : Option State :=
  if s.busy then
    match decode s.cmd with
    | .error _ => none
    | .ok op =>
      match s.stage with
      | .idle => none
      | .exec => stepExec op s
      | .ipek => stepIpek op s
      | .wkInit => stepWkInit op s
      | .wkIter => stepWkIter op s
      | .session => stepSession op s
      | .track => stepTrack op s
      | .finish => some (stepFinish s)
  else none

/-- The engine's turn: with `BUSY = 0` "no engine step is enabled" and the state stays (R230); with `BUSY = 1` the
enabled step is taken. -/
def engineTurn (s : State) : Host.Outcome State Fault Refusal :=
  if s.busy then
    match engineStep s with
    | some t => .next t
    | none => .fault .noEnabledStep
  else .next s

end Sys2Proof.Machine
end

