-- ==== Sys2Proof/Machine/Events.lean ====
section
/-! DEFINITION. What one action of the outside world, or the engine's turn, does (R18, R71). -/

namespace Sys2Proof.Machine

/-- A command word in the functional view (R19, R72): the word is decoded and its command runs whole; a word that is no
command ends at once with `IllegalCommand` (R93, R283). -/
def runWord (w : Word) (s : State) : Host.Outcome State Fault Refusal :=
  match decode w with
  | .ok i => exec i s
  | .error _ => .next (startIllegal w s)

/-- What one event does (R18, R71), on the state whose agenda is already past it. -/
def perform (e : Event) (s : State) : Host.Outcome State Fault Refusal :=
  match e with
  | .read size addr => hostRead size addr s
  | .write size addr v => hostWrite size addr v s
  | .command w => runWord w s
  | .engine => engineTurn s
  | .reset => .next (applyReset s)

end Sys2Proof.Machine
end

