-- ==== Sys2Proof/Machine/Step.lean ====
section
/-! DEFINITION. One step of the machine. The agenda is the total order of R71, chosen by the environment: the first
event happens. When the outside world asks for nothing more, the engine goes on by itself (R321; DEDUCED, log entry 3). -/

namespace Sys2Proof.Machine

/-- One step: the first event of the agenda, or the engine's turn when there is none. -/
def step (s : State) : Host.Outcome State Fault Refusal :=
  match s.agenda with
  | [] => engineTurn s
  | e :: rest => perform e { s with agenda := rest }

/-- The command word in the low `nbits` bits of `w`, put where `step` takes its next command from: a `CMD` write at the
head of the agenda. Nothing else changes. -/
def State.withFetchWord (s : State) (nbits w : Nat) : State :=
  { s with agenda := .command (BitVec.ofNat 32 (w % 2 ^ nbits)) :: s.agenda }

end Sys2Proof.Machine
end

