-- ==== Sys2Proof/Machine/Instances.lean ====
section
/-! DEFINITION. Several instances of the block (`N_ENGINES`, R8, R74, R300): a list of states, one for each instance,
each with its own registers, its own register map and its own host. The machine the host runs (`Sys2Proof.core`) is one
instance, the value `N_ENGINES = 1` the spec takes. -/

namespace Sys2Proof.Machine

/-- Instance `k` takes its step; "they share nothing" (R300), so no other instance is touched. A number that names no
instance changes nothing. -/
def stepInstance (k : Nat) (sys : List State) : Host.Outcome (List State) Fault Refusal :=
  match sys[k]? with
  | none => .next sys
  | some s =>
    match step s with
    | .next t => .next (sys.set k t)
    | .fault f => .fault f
    | .refused r => .refused r

end Sys2Proof.Machine
end

