-- ==== Sys2Proof/Machine/Script.lean ====
section
/-! DEFINITION. The host's script language (R98): its statements, the bus accesses each expands to and what the host
does with the words it reads; and the pseudo-commands, each with its expansion (R99). None of it is hardware. A script
runs over the register interface alone: every access is one step of the machine. -/

namespace Sys2Proof.Machine

/-! ### Syntax -/

/-- The bytes of a `KEY` or `DATA` statement. -/
inductive Source where
  /-- `<hex>`, as the bytes its digits stand for (`bytesFromHex`, R262). -/
  | hex (bytes : List Byte)
  /-- `<name>`: "the bytes read by an earlier `OUT`". -/
  | name (n : String)
  deriving DecidableEq, Repr

/-- The statements of R98, one constructor for each row of its table. -/
inductive Stmt where
  /-- `KEY <hex>`, `KEY <name>`. -/
  | key (src : Source)
  /-- `KSN <hex>`, 10 bytes. -/
  | ksn (bytes : List Byte)
  /-- `IV <hex>`, 8 bytes. -/
  | iv (bytes : List Byte)
  /-- `DATA <hex>`, `DATA <name>`. -/
  | data (src : Source)
  /-- `RUN <mnemonic>`. -/
  | run (i : Instr)
  /-- `OUT -> <name>`. -/
  | out (name : String)
  /-- `EXPECT <register> = <value>`. -/
  | expect (r : MapReg) (value : Word)
  deriving DecidableEq, Repr

/-! ### What the host holds while a script runs -/

/-- The view in which `RUN` writes `CMD` (R19). -/
inductive View where
  /-- The whole command as one step at the `CMD` write. -/
  | functional
  /-- The `CMD` write starts the engine, which then takes its steps. -/
  | sequencer
  deriving DecidableEq, Repr

/-- What the host has read so far, and how far the engine gets between its polls. -/
structure HostEnv where
  /-- The byte sequences `OUT` has named, the latest first. -/
  names : List (String × List Byte)
  /-- Whether the claim of each `EXPECT` held, oldest first. -/
  claims : List Bool
  /-- The engine's turns before each `STATUS` poll still to come. Time fixes them (R320), so they are the environment's
  choice (DESIGN CHOICE, log entry 15). -/
  polls : List Nat
  deriving DecidableEq, Repr

/-- A host that has read nothing. -/
def HostEnv.start (polls : List Nat) : HostEnv := { names := [], claims := [], polls := polls }

/-- Why a script stops before its end (DESIGN CHOICE, log entry 19). -/
inductive HostStop where
  /-- A step of the machine faulted. Safe: the script has no result. -/
  | fault (f : Fault)
  /-- An access was refused. Safe, as above. -/
  | refused (r : Refusal)
  /-- The polls of the environment ended while `RUN` had not yet read `DONE = 1`. R321 says that on the hardware they do
  not end there. Safe, as above. -/
  | stillPolling
  /-- A `KEY <name>` or `DATA <name>` before any `OUT` of that name: no script of R98. Safe, as above. -/
  | unknownName (name : String)
  /-- A byte sequence of a length R98 does not allow in its statement: no script of R98. Safe, as above. -/
  | badLength (n : Nat)
  deriving DecidableEq, Repr

/-! ### Accesses -/

/-- `n` steps, stopping at the first fault or refusal. -/
def runSteps : Nat → State → Host.Outcome State Fault Refusal
  | 0, s => .next s
  | n + 1, s =>
    match step s with
    | .next t => runSteps n t
    | .fault f => .fault f
    | .refused r => .refused r

/-- A list of host actions, one step each, from a state with nothing on its agenda. -/
def runScript (es : List Event) (s : State) : Host.Outcome State Fault Refusal :=
  runSteps es.length { s with agenda := es }

/-- A list of accesses and engine turns, made one step each. -/
def hostDo (es : List Event) (s : State) : Except HostStop State :=
  match runScript es s with
  | .next t => .ok t
  | .fault f => .error (.fault f)
  | .refused r => .error (.refused r)

/-- Word reads at these addresses, in order, with the values they returned. -/
def hostReads (addrs : List Nat) (s : State) : Except HostStop (List Word × State) := do
  let t ← hostDo (addrs.map fun a => Event.read 4 a) s
  .ok ((t.returned.drop s.returned.length).map fun x => x.2, t)

/-- One word read. -/
def hostReadWord (addr : Nat) (s : State) : Except HostStop (Word × State) := do
  let (ws, t) ← hostReads [addr] s
  .ok (ws.headD 0#32, t)

/-- The address of a word of the register map (R62). -/
def regAddr : MapReg → Nat
  | .cmd => 0x000
  | .status => 0x004
  | .errcode => 0x008
  | .klen => 0x00C
  | .dlen => 0x010
  | .olen => 0x014
  | .stage => 0x018
  | .sr => 0x01C
  | .key off => 0x020 + off
  | .ksn off => 0x040 + off
  | .iv off => 0x050 + off
  | .din off => 0x400 + off
  | .dout off => 0x800 + off

/-! ### What each statement expands to -/

/-- The words of a byte sequence, "the last word padded on the right with zero bytes" (R98). `n` counts the words. -/
def packWords (b : List Byte) : Nat → List Word
  | 0 => []
  | n + 1 => readWord b 0 :: packWords (b.drop 4) n

/-- The word writes of an array statement from `base` on (R98). -/
def writeWords (base : Nat) : List Word → List Event
  | [] => []
  | w :: rest => .write 4 base w :: writeWords (base + 4) rest

/-- All the words of `b` written from `base` on (R98). -/
def writeArray (base : Nat) (b : List Byte) : List Event := writeWords base (packWords b ((b.length + 3) / 4))

/-- `KEY <hex>` (R98). -/
def stmtKey (b : List Byte) : List Event := writeArray 0x020 b ++ [.write 4 0x00C (BitVec.ofNat 32 b.length)]

/-- `KSN <hex>` (R98), ten bytes. -/
def stmtKsn (b : List Byte) : List Event := writeArray 0x040 b

/-- `IV <hex>` (R98), eight bytes. -/
def stmtIv (b : List Byte) : List Event := writeArray 0x050 b

/-- `DATA <hex>` (R98). -/
def stmtData (b : List Byte) : List Event := writeArray 0x400 b ++ [.write 4 0x010 (BitVec.ofNat 32 b.length)]

/-- The first access of `RUN` (R98): `HostWrite(0x000, command word)`, in either view. -/
def cmdWrite (v : View) (w : Word) : Event :=
  match v with
  | .functional => .command w
  | .sequencer => .write 4 0x000 w

/-- "repeat `HostRead(0x004)` until bit 1 (`DONE`) is 1" (R98), with the polls left over. Before each poll the engine
takes the turns the environment gives it. -/
def pollDone : List Nat → State → Except HostStop (State × List Nat)
  | [], _ => .error .stillPolling
  | n :: rest, s => do
    let s1 ← hostDo (List.replicate n Event.engine) s
    let (status, s2) ← hostReadWord 0x004 s1
    if status.getLsbD 1 then .ok (s2, rest) else pollDone rest s2

/-- The `DOUT` addresses of `OUT` (R98): `0x800 + 4w` for `w` from 0 while `4w < OLEN`. -/
def outAddrs (olen : Nat) : List Nat := (List.range ((olen + 3) / 4)).map fun w => 0x800 + 4 * w

/-- The big-endian bytes of a word read from an array register (R64). -/
def wordBytes (w : Word) : List Byte := bytesN 4 w.toNat

/-- `OUT` (R98): `HostRead(0x014)` giving `OLEN`, the reads of `DOUT`, and "the first `OLEN` bytes" of their words. -/
def readOut (s : State) : Except HostStop (List Byte × State) := do
  let (olen, s1) ← hostReadWord 0x014 s
  let (ws, s2) ← hostReads (outAddrs olen.toNat) s1
  .ok ((ws.flatMap wordBytes).take olen.toNat, s2)

/-- The bytes a source stands for. -/
def sourceBytes (env : HostEnv) : Source → Except HostStop (List Byte)
  | .hex bytes => .ok bytes
  | .name n =>
    match env.names.lookup n with
    | some bytes => .ok bytes
    | none => .error (.unknownName n)

/-- The accesses of an array statement, where R98 allows a sequence of that length. -/
def writeChecked (allowed : Bool) (bytes : List Byte) (es : List Event) (s : State) : Except HostStop State :=
  if allowed then hostDo es s else .error (.badLength bytes.length)

/-- One statement (R98). -/
def runStmt (v : View) (st : Stmt) (s : State) (env : HostEnv) : Except HostStop (State × HostEnv) :=
  match st with
  | .key src => do
    let b ← sourceBytes env src
    let t ← writeChecked (decide (b.length ≤ 24)) b (stmtKey b) s
    .ok (t, env)
  | .ksn b => do
    let t ← writeChecked (b.length == 10) b (stmtKsn b) s
    .ok (t, env)
  | .iv b => do
    let t ← writeChecked (b.length == 8) b (stmtIv b) s
    .ok (t, env)
  | .data src => do
    let b ← sourceBytes env src
    let t ← writeChecked (decide (b.length ≤ s.params.dataMax)) b (stmtData b) s
    .ok (t, env)
  | .run i => do
    let s1 ← hostDo [cmdWrite v (encode i)] s
    let (t, rest) ← pollDone env.polls s1
    .ok (t, { env with polls := rest })
  | .out name => do
    let (b, t) ← readOut s
    .ok (t, { env with names := (name, b) :: env.names })
  | .expect r value => do
    let (w, t) ← hostReadWord (regAddr r) s
    .ok (t, { env with claims := env.claims ++ [w == value] })

/-- A script: its statements in order, up to the first that stops (R98). -/
def runStmts (v : View) : List Stmt → State → HostEnv → Except HostStop (State × HostEnv)
  | [], s, env => .ok (s, env)
  | st :: rest, s, env => do
    let (t, env') ← runStmt v st s env
    runStmts v rest t env'

/-! ### Pseudo-commands (R99) -/

/-- `deriveKey(bdk, ksn)` as one command. -/
def scriptDeriveKey (bdk ksn : List Byte) : List Stmt :=
  [.key (.hex bdk), .ksn ksn, .run .deriveKey, .out "sk"]

/-- `deriveKey(bdk, ksn)` as three commands, each result carried by the host from `DOUT` to `KEY`. -/
def scriptDeriveKeyByStages (bdk ksn : List Byte) : List Stmt :=
  [.key (.hex bdk), .ksn ksn, .run .deriveIpek, .out "ipek",
    .key (.name "ipek"), .run .deriveWk, .out "wk",
    .key (.name "wk"), .run .deriveSk, .out "sk"]

/-- `decryptTrack` bytes as one command. -/
def scriptDecryptTrack (bdk ksn ct : List Byte) : List Stmt :=
  [.key (.hex bdk), .ksn ksn, .data (.hex ct), .run .decryptTrack, .out "plain"]

/-- `decryptTrack` bytes as two commands. -/
def scriptDecryptTrackByStages (bdk ksn ct : List Byte) : List Stmt :=
  [.key (.hex bdk), .ksn ksn, .run .deriveKey, .out "sk",
    .key (.name "sk"), .data (.hex ct), .run .decAes, .out "plain"]

/-- `generateKey(key, ksnPartial)`: "an 8-byte `ksnPartial` is placed in `KSN[2..9]`". -/
def scriptGenerateKey (key ksnPartial : List Byte) : List Stmt :=
  [.key (.hex key), .ksn (zeros 2 ++ ksnPartial), .run .genKey, .out "newKey"]

end Sys2Proof.Machine
end

