-- ==== Sys2Proof/Machine/HostSide.lean ====
section
/-! DEFINITION. The host's side beyond its scripts: the codec functions (R262 to R264), the typed result (R299), and
`decryptTrack` as a host procedure over the machine (R265 to R267). None of it is hardware and none has an opcode (R5).
A character string is a list of characters. -/

namespace Sys2Proof.Machine

/-! ### The codec -/

/-- A hex digit, upper- or lower-case alike (R262). -/
def hexDigit (c : Char) : Option Nat :=
  if 48 ≤ c.toNat ∧ c.toNat ≤ 57 then some (c.toNat - 48)
  else if 65 ≤ c.toNat ∧ c.toNat ≤ 70 then some (c.toNat - 55)
  else if 97 ≤ c.toNat ∧ c.toNat ≤ 102 then some (c.toNat - 87)
  else none

/-- The pairs of a cleaned string, two characters at a time from the left (R262); `MalformedHex` for a character that is
not a hex digit and for an odd length. -/
def hexPairs : List Char → Except ErrKind (List Byte)
  | [] => .ok []
  | [_] => .error .malformedHex
  | c :: d :: rest =>
    match hexDigit c, hexDigit d, hexPairs rest with
    | some x, some y, .ok bs => .ok (BitVec.ofNat 8 (16 * x + y) :: bs)
    | _, _, _ => .error .malformedHex

/-- `bytesFromHex(s)` (R262): every space is removed first. -/
def bytesFromHex (s : List Char) : Except ErrKind (List Byte) := hexPairs (s.filter fun c => c ≠ ' ')

/-- An upper-case hex digit (R263). -/
def upperHexDigit (n : Nat) : Char := Char.ofNat (if n < 10 then 48 + n else 55 + n)

/-- `hexFromBytes(b)` (R263): "each byte rendered as exactly two uppercase hex digits". -/
def hexFromBytes : List Byte → List Char
  | [] => []
  | b :: rest => upperHexDigit (b.toNat / 16) :: upperHexDigit (b.toNat % 16) :: hexFromBytes rest

/-- `hexToAscii` on bytes (R264): a byte of value 128 or more is `MalformedHex`. -/
def hexToAscii : List Byte → Except ErrKind (List Char)
  | [] => .ok []
  | b :: rest =>
    if 128 ≤ b.toNat then .error .malformedHex
    else
      match hexToAscii rest with
      | .ok cs => .ok (Char.ofNat b.toNat :: cs)
      | .error e => .error e

/-! ### Track decryption -/

/-- The typed result a host presents for a finished command (R299): success with `DOUT[0..OLEN-1]`, or the kind in
`ERRCODE`. A `KIND` R281 does not list is never produced; it is shown as `CipherOperationFailed` (DESIGN CHOICE, log
entry 14). -/
def typedResult (s : State) : Except HostStop (Except ErrKind (List Byte) × State) := do
  let (status, s1) ← hostReadWord 0x004 s
  if status.getLsbD 2 then
    let (code, s2) ← hostReadWord 0x008 s1
    .ok (.error ((errKindOf (code.extractLsb' 0 8)).getD .cipherOperationFailed), s2)
  else
    let (b, s2) ← readOut s1
    .ok (.ok b, s2)

/-- Steps 2 to 4 of `decryptTrack` (R265) for decoded operands: operands, `RUN DECRYPT_TRACK`, the typed result, and its
rendering as characters. "A failure at any step returns the error alone" (R266). -/
def decryptTrackBytes (v : View) (polls : List Nat) (ct ksn bdk : List Byte) (s : State) :
    Except HostStop (Except ErrKind (List Char) × State) := do
  let script := [Stmt.key (.hex bdk), .ksn ksn, .data (.hex ct), .run .decryptTrack]
  let (t, _) ← runStmts v script s (HostEnv.start polls)
  let (result, u) ← typedResult t
  match result with
  | .ok plain => .ok (hexToAscii plain, u)
  | .error k => .ok (.error k, u)

/-- `decryptTrack(ciphertextHex, ksnHex, bdk)` (R265). -/
def decryptTrack (v : View) (polls : List Nat) (ctHex ksnHex : List Char) (bdk : List Byte) (s : State) :
    Except HostStop (Except ErrKind (List Char) × State) :=
  match bytesFromHex ctHex, bytesFromHex ksnHex with
  | .ok ct, .ok ksn =>
    if ksn.length ≠ 10 then .ok (.error .malformedHex, s)
    else if s.params.dataMax < ct.length then .ok (.error .badOperand, s)
    else decryptTrackBytes v polls ct ksn bdk s
  | _, _ => .ok (.error .malformedHex, s)

/-- The contactless variant (R267): the KSN element is tested first, then the track element. -/
def decryptTagged (v : View) (polls : List Nat) (trackTag ksnTag : Option (List Char)) (bdk : List Byte) (s : State) :
    Except HostStop (Except ErrKind (List Char) × State) :=
  match ksnTag, trackTag with
  | none, _ => .ok (.error .missingKSN, s)
  | some _, none => .ok (.error .missingTrackData, s)
  | some ksn, some ct => decryptTrack v polls ct ksn bdk s

end Sys2Proof.Machine
end

