-- ==== Sys2Proof/Safety.lean ====
section
/-! DEFINITION. What a good state and a safe outcome are: the invariants of R30, R34, R245 and the sizes of R20, as one
decidable predicate on states; the loop invariant of R243; and the terms statements use for the host's view. -/

namespace Sys2Proof.Machine

/-- Every byte is zero. -/
def allZero (b : List Byte) : Bool := b.all fun x => x == 0#8

/-- The sizes of R20: each array has its length, and `OLEN`, `RLEN` count bytes that exist. -/
def State.sizesOk (s : State) : Bool :=
  s.params.wellFormed && s.key.length == 24 && s.ksn.length == 10 && s.iv.length == 8 &&
    s.din.length == s.params.dataMax && s.dout.length == s.params.doutMax && s.curkey.length == 16 &&
    decide (s.olen.toNat ≤ s.params.doutMax) && decide (s.res.length ≤ s.params.doutMax) &&
    s.rlen.toNat == s.res.length

/-- The transients of R37 are zero. -/
def State.transientsZero (s : State) : Bool :=
  s.sr == 0#21 && s.ctr == 0#21 && s.ksnr == 0#64 && s.curkey == zeros 16 && s.res == [] && s.rlen == 0#11 &&
    s.perr == 0#16

/-- No result is published: `OLEN = 0` and `DOUT` all zero. -/
def State.resultZero (s : State) : Bool := s.olen == 0#11 && allZero s.dout

/-- The stages a command passes through (R231). -/
def stagesOf : Instr → List Stage
  | .nop => [.exec, .finish]
  | .clear => [.exec, .finish]
  | .encDes => [.exec, .finish]
  | .encTdes => [.exec, .finish]
  | .encAes => [.exec, .finish]
  | .decDes => [.exec, .finish]
  | .decTdes => [.exec, .finish]
  | .decAes => [.exec, .finish]
  | .expand3des => [.exec, .finish]
  | .xor => [.exec, .finish]
  | .and => [.exec, .finish]
  | .getctr => [.exec, .finish]
  | .deriveIpek => [.ipek, .finish]
  | .deriveWk => [.wkInit, .wkIter, .finish]
  | .deriveSk => [.session, .finish]
  | .deriveKey => [.ipek, .wkInit, .wkIter, .session, .finish]
  | .genKey => [.exec, .finish]
  | .encReg => [.exec, .finish]
  | .decryptTrack => [.ipek, .wkInit, .wkIter, .session, .track, .finish]

/-- While a command runs: `CMD` holds a command, its stage is one of its own, and its start checks hold of the operands
(R230, R231, R245). (`CLEAR` zeroises the operands it does not read, so its checks hold throughout.) -/
def State.runningOk (s : State) : Bool :=
  match decode s.cmd with
  | .ok i => (stagesOf i).contains s.stage && startError i s == none
  | .error _ => false

/-- `SR` has exactly one set bit. -/
def oneHot (x : BitVec 21) : Bool := x ≠ 0#21 && x &&& (x - 1#21) == 0#21

/-- With `BUSY = 1` (R30, R34, R245): no flag and no result is shown; `SR` is one-hot exactly in the loop; `RES` and
`PERR` are filled only for `FINISH`. -/
def State.busyOk (s : State) : Bool :=
  !s.done && !s.err && s.errcode == 0#16 && s.resultZero && s.runningOk &&
    (if s.stage = .wkIter then oneHot s.sr else s.sr == 0#21) &&
    (s.stage == .finish || (s.res == [] && s.rlen == 0#11 && s.perr == 0#16)) &&
    (s.perr == 0#16 || (s.perr == 0x0302#16 && s.res == []))

/-- With `BUSY = 0` (R30, R27, R245): the stage is `IDLE`, the transients are zero, an error comes with `DONE` and a
code and without a result, and without an error there is no code. -/
def State.idleOk (s : State) : Bool :=
  s.stage == .idle && s.transientsZero &&
    (if s.err then s.done && s.errcode ≠ 0#16 && s.resultZero else s.errcode == 0#16) &&
    allZero (s.dout.drop s.olen.toNat)

/-- The invariant of the machine: R20 (sizes), R30, R33, R34, R37, R245. -/
def State.inv (s : State) : Bool := s.sizesOk && (if s.busy then s.busyOk else s.idleOk)

/-- R243 at `SR = 2^k`, for the key `ipek` that `CURKEY` held at `WK_INIT`: `CTR` is the counter of the KSN, `KSNR` is
the KSN's low 8 bytes with bits `k` to 0 cleared, and `CURKEY` is the working key of the KSN with counter bits `k` to 0
cleared. -/
def State.loopInv (s : State) (k : Nat) (ipek : List Byte) : Prop :=
  s.sr = 1#21 <<< k ∧
  s.ctr.toNat = val s.ksn % 2 ^ 21 ∧
  s.ksnr.toNat = val (last8 s.ksn) / 2 ^ (k + 1) * 2 ^ (k + 1) ∧
  s.curkey = deriveWorkingKey (bytesN 10 (val s.ksn / 2 ^ (k + 1) * 2 ^ (k + 1))) ipek

/-- An event that asks only for admitted accesses (R68). -/
def eventAdmitted : Event → Bool
  | .read size addr => (admittedReg size addr).toBool
  | .write size addr _ => (admittedReg size addr).toBool
  | .command _ => true
  | .engine => true
  | .reset => true

/-- The state in which a command with the word `w` ends without error and with the result `r` (R27, R246): the word, the
flags, the result and then zeros; every other register as before the command. -/
def endedWell (w : Word) (r : List Byte) (s : State) : State :=
  { s with
    cmd := w, done := true, err := false, errcode := 0#16, olen := BitVec.ofNat 11 r.length
    dout := r ++ zeros (s.params.doutMax - r.length) }

/-- The state in which a command with the word `w` ends with the error `code` (R286): "a failed command has no effect
except on `CMD`, `STATUS`, `ERRCODE`, `OLEN`, `DOUT`". -/
def endedInError (w : Word) (code : BitVec 16) (s : State) : State :=
  { s with cmd := w, done := true, err := true, errcode := code, olen := 0#11, dout := zeros s.params.doutMax }

/-- `k` turns of the engine with no host action between them. -/
def engineRun : Nat → State → Option State
  | 0, s => some s
  | n + 1, s =>
    match engineStep s with
    | some t => engineRun n t
    | none => none

end Sys2Proof.Machine
end

