-- ==== Sys2Proof/Certificates/Slice0/Obligations.lean ====
section
/-! DEFINITION. The statements for the provers. Each docstring names the rules it formalises. "Idle" is `BUSY = 0`. -/

open Sys2Proof Sys2Proof.Machine

/-! ### Encoding and the step -/

/-- R92: six of the command words, written out, decode to the commands of their rows. -/
def Obligations.DecodeReadsListedWords : Prop :=
  decode 0x00000000#32 = .ok .nop ∧ decode 0x00000210#32 = .ok .encAes ∧ decode 0x00000111#32 = .ok .decTdes ∧
    decode 0x00000022#32 = .ok .and ∧ decode 0x00000035#32 = .ok .encReg ∧ decode 0x00000040#32 = .ok .decryptTrack

/-- R92, R93: the word of every command decodes to it, and no other word decodes to a command at all. -/
def Obligations.DecodeAndEncodeAgree : Prop :=
  (∀ i : Instr, i.wellFormed = true → decode (encode i) = .ok i) ∧
    ∀ (w : Word) (i : Instr), decode w = .ok i → w = encode i

/-- R283: the start of a word that matches no row ends at once, in either view, with `ERRCODE = 0x0010`; the word is in
`CMD` and nothing else changes but the flags, `OLEN` and `DOUT`. -/
def Obligations.IllegalWordEndsAtOnce : Prop :=
  ∀ (s : State) (w : Word), s.busy = false → (∀ i : Instr, w ≠ encode i) →
    runWord w s = .next (endedInError w 0x0010#16 s) ∧ hostWrite 4 0x000 w s = .next (endedInError w 0x0010#16 s)

/-- The step runs the decoded command (R19, R72; the agenda is the model's own, log entry 2): a command word at the head
of the agenda runs as `exec` of what it decodes to, and `withFetchWord` puts it there. -/
def Obligations.StepRunsDecodedCommand : Prop :=
  ∀ (s : State) (w : Word) (i : Instr) (rest : List Event), decode w = .ok i →
    (s.agenda = .command w :: rest → step s = exec i { s with agenda := rest }) ∧
      step (s.withFetchWord 32 w.toNat) = exec i s

/-- R94, steps 1, 2, 8, 9, 10: the `CMD` write of a command whose lengths are legal starts the engine and changes nothing
else. -/
def Obligations.CmdWriteStartsEngine : Prop :=
  ∀ (s : State) (i : Instr) (rest : List Event), s.agenda = .write 4 0x000 (encode i) :: rest → s.busy = false →
    legalKlen i s.klen.toNat = true → legalDlen s.params.dataMax i s.dlen.toNat = true →
    step s = .next
      { s with
        agenda := rest, cmd := encode i, done := false, err := false, errcode := 0#16, olen := 0#11
        dout := zeros (s.params.dataMax + 16), busy := true
        curkey := if i = .deriveWk ∨ i = .deriveSk then s.key.take 16 else s.curkey
        stage :=
          if i = .deriveIpek ∨ i = .deriveKey ∨ i = .decryptTrack then .ipek
          else if i = .deriveWk then .wkInit
          else if i = .deriveSk then .session
          else .exec }

/-- R95, R284: which commands read `KEY`, `DIN` and `KSN`; R96: the legal lengths of each; as the tables list them. -/
def Obligations.OperandTables : Prop :=
  ∀ (i : Instr) (n m : Nat),
    (readsKey i = true ↔ i ∉ [Instr.nop, .clear, .getctr]) ∧
    (readsDin i = true ↔ i ∈ [Instr.encDes, .encTdes, .encAes, .decDes, .decTdes, .decAes, .xor, .and, .decryptTrack]) ∧
    (readsKsn i = true ↔
      i ∈ [Instr.getctr, .deriveIpek, .deriveWk, .deriveKey, .genKey, .encReg, .decryptTrack]) ∧
    (i ∈ [Instr.encDes, .decDes] → (legalKlen i n = true ↔ n = 8)) ∧
    (i ∈ [Instr.encTdes, .decTdes] → (legalKlen i n = true ↔ n = 24)) ∧
    (i ∈ [Instr.encAes, .decAes, .deriveWk, .deriveSk, .genKey, .encReg] → (legalKlen i n = true ↔ n = 16)) ∧
    (i ∈ [Instr.deriveIpek, .deriveKey, .decryptTrack] → (legalKlen i n = true ↔ n = 16 ∨ n = 24)) ∧
    (i = .expand3des → (legalKlen i n = true ↔ 1 ≤ n ∧ n ≤ 24)) ∧
    (i ∈ [Instr.xor, .and] → (legalKlen i n = true ↔ n ≤ 24)) ∧
    (i ∈ [Instr.nop, .clear, .getctr] → legalKlen i n = true) ∧
    (i ∈ [Instr.encDes, .encTdes, .encAes, .xor, .and] → (legalDlen m i n = true ↔ n ≤ m)) ∧
    (i ∈ [Instr.decDes, .decTdes] → (legalDlen m i n = true ↔ 0 < n ∧ n % 8 = 0 ∧ n ≤ m)) ∧
    (i ∈ [Instr.decAes, .decryptTrack] → (legalDlen m i n = true ↔ 0 < n ∧ n % 16 = 0 ∧ n ≤ m)) ∧
    (readsDin i = false → legalDlen m i n = true)

/-- R290, R94 steps 4 to 7: the errors found at start, each only where none before it holds. -/
def Obligations.StartErrorsInOrder : Prop :=
  ∀ (s : State) (i : Instr), s.busy = false →
    let keyTooLong := readsKey i = true ∧ 24 < s.klen.toNat
    let dataTooLong := readsDin i = true ∧ s.params.dataMax < s.dlen.toNat
    (keyTooLong → exec i s = .next (endedInError (encode i) 0x0111#16 s)) ∧
    (¬keyTooLong → dataTooLong → exec i s = .next (endedInError (encode i) 0x0211#16 s)) ∧
    (¬keyTooLong → ¬dataTooLong → legalKlen i s.klen.toNat = false →
      exec i s = .next (endedInError (encode i) 0x0102#16 s)) ∧
    (¬keyTooLong → ¬dataTooLong → legalKlen i s.klen.toNat = true →
      legalDlen s.params.dataMax i s.dlen.toNat = false → exec i s = .next (endedInError (encode i) 0x0202#16 s))

/-! ### What each command does -/

/-- R270: `NOP` wipes the flags and the result and leaves every operand. -/
def Obligations.NopCompletes : Prop :=
  ∀ s : State, s.busy = false → exec .nop s = .next (endedWell 0x00000000#32 [] s)

/-- R271: `CLEAR` zeroises the operands; the state after it is the reset state but for `CMD` and `DONE` (and the model's
own fields). -/
def Obligations.ClearZeroises : Prop :=
  ∀ s : State, s.busy = false →
    exec .clear s = .next
      { endedWell 0x00000001#32 [] s with
        key := zeros 24, klen := 0#5, ksn := zeros 10, iv := zeros 8, din := zeros s.params.dataMax, dlen := 0#11 } ∧
    (s.inv = true → exec .clear s = .next
      { State.resetOf s.params with
        cmd := 0x00000001#32, done := true, agenda := s.agenda, returned := s.returned })

/-- R115, R116: `XOR` and `AND`, their results, their lengths and their frames, and the errors of their operand lengths. -/
def Obligations.XorAndCommands : Prop :=
  ∀ s : State, s.busy = false →
    let data := s.din.take s.dlen.toNat
    let key := s.key.take s.klen.toNat
    (s.klen.toNat ≤ 24 → s.dlen.toNat ≤ s.params.dataMax →
      exec .xor s = .next (endedWell 0x00000021#32 (xorBytes data key) s) ∧
        exec .and s = .next (endedWell 0x00000022#32 (andBytes data key) s) ∧
        (s.inv = true → (xorBytes data key).length = max s.dlen.toNat s.klen.toNat ∧
          (andBytes data key).length = max s.dlen.toNat s.klen.toNat)) ∧
    (24 < s.klen.toNat →
      exec .xor s = .next (endedInError 0x00000021#32 0x0111#16 s) ∧
        exec .and s = .next (endedInError 0x00000022#32 0x0111#16 s)) ∧
    (s.klen.toNat ≤ 24 → s.params.dataMax < s.dlen.toNat →
      exec .xor s = .next (endedInError 0x00000021#32 0x0211#16 s) ∧
        exec .and s = .next (endedInError 0x00000022#32 0x0211#16 s))

/-- R111, R112: the length of `xor` and `and`, and each byte of them. `a'[i]` is zero where the left padding stands. -/
def Obligations.XorAndBytewise : Prop :=
  ∀ a b : List Byte,
    let n := max a.length b.length
    let a' := fun i : Nat => if i < n - a.length then 0#8 else a.getD (i - (n - a.length)) 0#8
    let b' := fun i : Nat => if i < n - b.length then 0#8 else b.getD (i - (n - b.length)) 0#8
    (xorBytes a b).length = n ∧ (andBytes a b).length = n ∧
      ∀ i, i < n → (xorBytes a b)[i]? = some (a' i ^^^ b' i) ∧ (andBytes a b)[i]? = some (a' i &&& b' i)

/-- The laws of `xor` and `and`: those of R113, and those R114 (a), (c), (d), (e) infers from R110 to R112. -/
def Obligations.XorAndLaws : Prop :=
  ∀ a b : List Byte,
    xorBytes a a = zeros a.length ∧ andBytes a a = a ∧
    (a.length = b.length → xorBytes (xorBytes a b) b = a) ∧
    xorBytes (xorBytes a b) b = lpad a (max a.length b.length) ∧
    xorBytes a b = xorBytes b a ∧ andBytes a b = andBytes b a ∧
    xorBytes a [] = a ∧ andBytes a [] = zeros a.length ∧
    (b.length < a.length →
      (xorBytes a b).take (a.length - b.length) = a.take (a.length - b.length) ∧
        (andBytes a b).take (a.length - b.length) = zeros (a.length - b.length))

/-- R143, R144, R145: the encryption commands. The operand lengths of R96; the result of R140; its length. -/
def Obligations.EncryptCommands : Prop :=
  ∀ s : State, s.inv = true → s.busy = false → s.dlen.toNat ≤ s.params.dataMax →
    let data := s.din.take s.dlen.toNat
    let key := s.key.take s.klen.toNat
    (s.klen = 8#5 →
      exec .encDes s = .next (endedWell 0x00000010#32 (ecb (desE key) 8 (pkcs7Pad data 8)) s) ∧
        (ecb (desE key) 8 (pkcs7Pad data 8)).length = s.dlen.toNat + 8 - s.dlen.toNat % 8) ∧
    (s.klen = 24#5 →
      exec .encTdes s = .next (endedWell 0x00000110#32 (ecb (tdesE key) 8 (pkcs7Pad data 8)) s) ∧
        (ecb (tdesE key) 8 (pkcs7Pad data 8)).length = s.dlen.toNat + 8 - s.dlen.toNat % 8) ∧
    (s.klen = 16#5 →
      exec .encAes s = .next (endedWell 0x00000210#32 (ecb (aesE key) 16 (pkcs7Pad data 16)) s) ∧
        (ecb (aesE key) 16 (pkcs7Pad data 16)).length = s.dlen.toNat + 16 - s.dlen.toNat % 16)

/-- R146, R147, R148: the decryption commands where they end well: with `DEC_UNPAD = 1` and a good padding, or with
`DEC_UNPAD = 0`. -/
def Obligations.DecryptCommands : Prop :=
  ∀ s : State, s.inv = true → s.busy = false → 0 < s.dlen.toNat → s.dlen.toNat ≤ s.params.dataMax →
    let data := s.din.take s.dlen.toNat
    let key := s.key.take s.klen.toNat
    (s.klen = 8#5 → s.dlen.toNat % 8 = 0 →
      (s.params.decUnpad = false → exec .decDes s = .next (endedWell 0x00000011#32 (ecb (desD key) 8 data) s)) ∧
      (∀ r, s.params.decUnpad = true → pkcs7Unpad (ecb (desD key) 8 data) 8 = some r →
        exec .decDes s = .next (endedWell 0x00000011#32 r s))) ∧
    (s.klen = 24#5 → s.dlen.toNat % 8 = 0 →
      (s.params.decUnpad = false → exec .decTdes s = .next (endedWell 0x00000111#32 (ecb (tdesD key) 8 data) s)) ∧
      (∀ r, s.params.decUnpad = true → pkcs7Unpad (ecb (tdesD key) 8 data) 8 = some r →
        exec .decTdes s = .next (endedWell 0x00000111#32 r s))) ∧
    (s.klen = 16#5 → s.dlen.toNat % 16 = 0 →
      (s.params.decUnpad = false → exec .decAes s = .next (endedWell 0x00000211#32 (ecb (aesD key) 16 data) s)) ∧
      (∀ r, s.params.decUnpad = true → pkcs7Unpad (ecb (aesD key) 16 data) 16 = some r →
        exec .decAes s = .next (endedWell 0x00000211#32 r s)))

/-- R285 sub-cause 3, R288: a decryption whose padding is bad delivers nothing and changes no operand. -/
def Obligations.BadPaddingDeliversNothing : Prop :=
  ∀ s : State, s.inv = true → s.busy = false → s.params.decUnpad = true →
    0 < s.dlen.toNat → s.dlen.toNat ≤ s.params.dataMax →
    let data := s.din.take s.dlen.toNat
    let key := s.key.take s.klen.toNat
    (s.klen = 8#5 → s.dlen.toNat % 8 = 0 → pkcs7Unpad (ecb (desD key) 8 data) 8 = none →
      exec .decDes s = .next (endedInError 0x00000011#32 0x0302#16 s)) ∧
    (s.klen = 24#5 → s.dlen.toNat % 8 = 0 → pkcs7Unpad (ecb (tdesD key) 8 data) 8 = none →
      exec .decTdes s = .next (endedInError 0x00000111#32 0x0302#16 s)) ∧
    (s.klen = 16#5 → s.dlen.toNat % 16 = 0 → pkcs7Unpad (ecb (aesD key) 16 data) 16 = none →
      exec .decAes s = .next (endedInError 0x00000211#32 0x0302#16 s)) ∧
    (s.klen = 16#5 ∨ s.klen = 24#5 → s.dlen.toNat % 16 = 0 →
      pkcs7Unpad (ecb (aesD (deriveKey key s.ksn)) 16 data) 16 = none →
      exec .decryptTrack s = .next (endedInError 0x00000040#32 0x0302#16 s))

/-- R138, R139: what the padding functions do: the padding is `p` bytes of value `p`, `1 ≤ p ≤ B`, up to a multiple of
`B`, and the unpadding accepts exactly such an ending. -/
def Obligations.PaddingRules : Prop :=
  ∀ (d : List Byte) (b : Nat), 0 < b → b ≤ 255 →
    (∃ p, 1 ≤ p ∧ p ≤ b ∧ pkcs7Pad d b = d ++ List.replicate p (BitVec.ofNat 8 p) ∧ (d.length + p) % b = 0) ∧
    pkcs7Unpad (pkcs7Pad d b) b = some d ∧
    ∀ r, pkcs7Unpad d b = some r ↔ ∃ p, 1 ≤ p ∧ p ≤ b ∧ d = r ++ List.replicate p (BitVec.ofNat 8 p)

/-- R134, R149: `EXPAND3DES` gives the 24 bytes `k[i mod len(k)]`. -/
def Obligations.Expand3desCommand : Prop :=
  ∀ s : State, s.inv = true → s.busy = false →
    (1 ≤ s.klen.toNat → s.klen.toNat ≤ 24 →
      exec .expand3des s = .next
        (endedWell 0x00000020#32 ((List.range 24).map fun i => s.key.getD (i % s.klen.toNat) 0#8) s)) ∧
    (24 < s.klen.toNat → exec .expand3des s = .next (endedInError 0x00000020#32 0x0111#16 s)) ∧
    (s.klen = 0#5 → exec .expand3des s = .next (endedInError 0x00000020#32 0x0102#16 s))

/-- R205, R214: `GETCTR` gives the KSN's value modulo `2^21` in 3 bytes, whatever `KEY` and `DIN` hold. -/
def Obligations.GetctrCommand : Prop :=
  ∀ s : State, s.inv = true → s.busy = false →
    exec .getctr s = .next (endedWell 0x00000023#32 (bytesN 3 (val s.ksn % 2 ^ 21)) s)

/-- R202, R215: `DERIVE_IPEK` with the cipher engine unfolded: each half is one 3DES block encryption of
`KSN[0..6] ++ [KSN[7] & 0xE0]`. -/
def Obligations.DeriveIpekCommand : Prop :=
  ∀ s : State, s.inv = true → s.busy = false → s.klen = 16#5 ∨ s.klen = 24#5 →
    let bdk := s.key.take s.klen.toNat
    let m8 := s.ksn.take 7 ++ [s.ksn.getD 7 0#8 &&& 0xE0#8]
    exec .deriveIpek s = .next
      (endedWell 0x00000030#32
        (tdesE (expand3DES bdk) m8 ++
          tdesE (expand3DES (xorBytes bdk (bytesN 16 0xC0C0C0C000000000C0C0C0C000000000))) m8) s)

/-- R210, R216: `DERIVE_WK` gives the working key of `KSN` from the IPEK in `KEY[0..15]`. -/
def Obligations.DeriveWkCommand : Prop :=
  ∀ s : State, s.busy = false → s.klen = 16#5 →
    exec .deriveWk s = .next (endedWell 0x00000031#32 (deriveWorkingKey s.ksn (s.key.take 16)) s)

/-- R213, R217: `DERIVE_SK`: the masked key encrypts its own two halves. -/
def Obligations.DeriveSkCommand : Prop :=
  ∀ s : State, s.inv = true → s.busy = false → s.klen = 16#5 →
    let masked := xorBytes (s.key.take 16) (bytesN 16 0x0000000000FF00000000000000FF0000)
    let k24 := masked ++ masked.take 8
    exec .deriveSk s = .next
      (endedWell 0x00000032#32 (tdesE k24 (masked.take 8) ++ tdesE k24 (masked.drop 8)) s)

/-- R213, R218: `DERIVE_KEY` is the session key of the working key of the IPEK. -/
def Obligations.DeriveKeyCommand : Prop :=
  ∀ s : State, s.busy = false → s.klen = 16#5 ∨ s.klen = 24#5 →
    exec .deriveKey s = .next
      (endedWell 0x00000033#32
        (deriveSessionKey (deriveWorkingKey s.ksn (deriveIPEK (s.key.take s.klen.toNat) s.ksn))) s)

/-- R207, R208, R219, R220: `ENC_REG` is one DES encryption under the top half of the key, between two XORs with its
bottom half; `GEN_KEY` puts the register of the masked key on the left and of the key itself on the right. -/
def Obligations.GenKeyAndEncRegCommands : Prop :=
  ∀ s : State, s.inv = true → s.busy = false → s.klen = 16#5 →
    let reg := fun k : List Byte =>
      xorBytes (k.drop 8) (desE (k.take 8) (xorBytes (k.drop 8) (s.ksn.drop 2)))
    let key := s.key.take 16
    exec .encReg s = .next (endedWell 0x00000035#32 (reg key) s) ∧
      exec .genKey s = .next
        (endedWell 0x00000034#32
          (reg (xorBytes key (bytesN 16 0xC0C0C0C000000000C0C0C0C000000000)) ++ reg key) s)

/-- R260: `DECRYPT_TRACK` where it ends well: the AES decryption of `DIN` under the derived key, unpadded or whole. -/
def Obligations.DecryptTrackCommand : Prop :=
  ∀ s : State, s.inv = true → s.busy = false → s.klen = 16#5 ∨ s.klen = 24#5 →
    0 < s.dlen.toNat → s.dlen.toNat % 16 = 0 → s.dlen.toNat ≤ s.params.dataMax →
    let plain := ecb (aesD (deriveKey (s.key.take s.klen.toNat) s.ksn)) 16 (s.din.take s.dlen.toNat)
    (s.params.decUnpad = false → exec .decryptTrack s = .next (endedWell 0x00000040#32 plain s)) ∧
      ∀ r, s.params.decUnpad = true → pkcs7Unpad plain 16 = some r →
        exec .decryptTrack s = .next (endedWell 0x00000040#32 r s)

/-- R22, R23, R24, R26, R318: no command changes an operand register except `CLEAR`, in either view. -/
def Obligations.OperandsPersist : Prop :=
  ∀ (s t : State) (i : Instr), i ≠ .clear →
    exec i s = .next t ∨ (decode s.cmd = .ok i ∧ engineStep s = some t) →
    t.key = s.key ∧ t.klen = s.klen ∧ t.ksn = s.ksn ∧ t.iv = s.iv ∧ t.din = s.din ∧ t.dlen = s.dlen

/-- R286, R288, R289: an ended command that shows an error has delivered nothing, has changed nothing but `CMD`, the
flags, `ERRCODE`, `OLEN` and `DOUT`, and the next command is accepted. -/
def Obligations.ErrorsDeliverNothing : Prop :=
  ∀ (s t : State) (i : Instr), s.busy = false → exec i s = .next t →
    t.busy = false ∧ t.done = true ∧
      (t.err = true → t = endedInError (encode i) t.errcode s ∧
        t.errcode ∈ [0x0111#16, 0x0211#16, 0x0102#16, 0x0202#16, 0x0302#16])

/-- R95: a command's result, its length, its error and its flags are functions of the operands R95 lists for it (and of
the parameters): nothing else in the state has any influence, the history included. -/
def Obligations.OnlyListedOperandsMatter : Prop :=
  ∀ (s1 s2 t1 t2 : State) (i : Instr), s1.busy = false → s2.busy = false → s1.params = s2.params →
    (readsKey i = true → s1.klen = s2.klen ∧ s1.key.take s1.klen.toNat = s2.key.take s2.klen.toNat) →
    (readsDin i = true → s1.dlen = s2.dlen ∧ s1.din.take s1.dlen.toNat = s2.din.take s2.dlen.toNat) →
    (readsKsn i = true → s1.ksn = s2.ksn) →
    exec i s1 = .next t1 → exec i s2 = .next t2 →
    t1.dout = t2.dout ∧ t1.olen = t2.olen ∧ t1.done = t2.done ∧ t1.err = t2.err ∧ t1.errcode = t2.errcode

/-! ### The register map -/

/-- R66: while `BUSY = 1` no host write changes anything, a read of `CMD`, `STATUS`, `STAGE`, `SR` returns the current
value (`STATUS` is then `0x00000001`, R30, R247), and a read of any other mapped address returns zero. That the value
joins `returned` is the model's choice (log entry 4). -/
def Obligations.BusyHostAccess : Prop :=
  ∀ (s : State) (addr : Nat) (r : MapReg), s.inv = true → s.busy = true → admittedReg 4 addr = .ok r →
    (∀ v : Word, hostWrite 4 addr v s = .next s) ∧ (∀ i : Instr, exec i s = .next s) ∧
      hostRead 4 addr s = .next
        { s with
          returned := s.returned ++
            [(addr,
              if addr = 0x000 then s.cmd
              else if addr = 0x004 then 0x00000001#32
              else if addr = 0x018 then (stageCode s.stage).setWidth 32
              else if addr = 0x01C then s.sr.setWidth 32
              else 0#32)] }

/-- R62, R64, R67: what each read returns while `BUSY = 0`. Reads have no effect but the value; that it joins `returned` is
the model's choice (log entry 4), and that every word of the `DIN` and `DOUT` ranges is mapped is log entry 18. -/
def Obligations.IdleReads : Prop :=
  ∀ (s : State) (k : Nat), s.busy = false →
    let reads := fun (addr : Nat) (v : Word) =>
      hostRead 4 addr s = .next { s with returned := s.returned ++ [(addr, v)] }
    reads 0x000 s.cmd ∧
    reads 0x004 (BitVec.ofNat 32 (2 * s.done.toNat + 4 * s.err.toNat)) ∧
    reads 0x008 (s.errcode.setWidth 32) ∧ reads 0x00C (s.klen.setWidth 32) ∧ reads 0x010 (s.dlen.setWidth 32) ∧
    reads 0x014 (s.olen.setWidth 32) ∧ reads 0x018 ((stageCode s.stage).setWidth 32) ∧ reads 0x01C (s.sr.setWidth 32) ∧
    (k < 6 → reads (0x020 + 4 * k) 0#32) ∧ (k < 3 → reads (0x040 + 4 * k) (readWord s.ksn (4 * k))) ∧
    (k < 2 → reads (0x050 + 4 * k) (readWord s.iv (4 * k))) ∧ (k < 256 → reads (0x400 + 4 * k) (readWord s.din (4 * k))) ∧
    (k < 260 → reads (0x800 + 4 * k) (readWord s.dout (4 * k)))

/-- R64: a word of an array is its four bytes, the first in bits 31:24, zero in the place of bytes beyond the end; a
write stores those four bytes, discards what lies beyond the end, and leaves every other byte. -/
def Obligations.WordsPackBigEndian : Prop :=
  ∀ (arr : List Byte) (off : Nat) (v : Word),
    (readWord arr off).toNat = val ((List.range 4).map fun j => arr.getD (off + j) 0#8) ∧
    (writeWord arr off v).length = arr.length ∧
    (∀ j, j < 4 → off + j < arr.length → (writeWord arr off v).getD (off + j) 0#8 = (bytesN 4 v.toNat).getD j 0#8) ∧
    ∀ j, j < off ∨ off + 4 ≤ j → (writeWord arr off v)[j]? = arr[j]?

/-- R62, R64, R67, R23, R26: while `BUSY = 0`, a write to a read-write register stores its value (the low bits of a
narrow one; of an array the bytes that exist) and changes that register alone; in any state a write to a read-only
register is ignored (R66, R67). That the whole `DIN` and `DOUT` ranges are mapped, whatever `DATA_MAX`, is log entry 18. -/
def Obligations.IdleWritesStore : Prop :=
  ∀ (s : State) (v : Word) (k : Nat), s.busy = false →
    hostWrite 4 0x00C v s = .next { s with klen := v.setWidth 5 } ∧
    hostWrite 4 0x010 v s = .next { s with dlen := v.setWidth 11 } ∧
    (k < 6 → hostWrite 4 (0x020 + 4 * k) v s = .next { s with key := writeWord s.key (4 * k) v }) ∧
    (k < 3 → hostWrite 4 (0x040 + 4 * k) v s = .next { s with ksn := writeWord s.ksn (4 * k) v }) ∧
    (k < 2 → hostWrite 4 (0x050 + 4 * k) v s = .next { s with iv := writeWord s.iv (4 * k) v }) ∧
    (k < 256 → hostWrite 4 (0x400 + 4 * k) v s = .next { s with din := writeWord s.din (4 * k) v }) ∧
    ∀ (u : State) (addr : Nat),
      addr ∈ [0x004, 0x008, 0x014, 0x018, 0x01C] ∨ (0x800 ≤ addr ∧ addr ≤ 0xC0F ∧ addr % 4 = 0) →
      hostWrite 4 addr v u = .next u

/-- R64, R67, R23, R26: what a register reads back after a write of it: the low bits of a narrow one; of an array the
bytes that exist (`KSN[8..9]` in bits 31:16; `DIN` up to `DATA_MAX`, beyond which its words are still mapped and read
zero, log entry 18). -/
def Obligations.WrittenWordsReadBack : Prop :=
  ∀ (s : State) (v : Word) (k : Nat), s.inv = true → s.busy = false →
    readValue (writeValue .klen v s) .klen = v &&& 0x1F#32 ∧
    readValue (writeValue .dlen v s) .dlen = v &&& 0x7FF#32 ∧
    (k < 2 → readValue (writeValue (.ksn (4 * k)) v s) (.ksn (4 * k)) = v) ∧
    readValue (writeValue (.ksn 8) v s) (.ksn 8) = v &&& 0xFFFF0000#32 ∧
    (k < 2 → readValue (writeValue (.iv (4 * k)) v s) (.iv (4 * k)) = v) ∧
    (k < 256 → readValue (writeValue (.din (4 * k)) v s) (.din (4 * k)) = if 4 * k < s.params.dataMax then v else 0#32)

/-- R68: an access that is not 32 bits wide, not at a multiple of 4, or at an address R62 does not map is refused, and a
step is refused for no other reason. Of what R68 allows (no step, or a refusal) the refusal, also while `BUSY = 1`, is
the model's choice (log entry 7); that the whole `DIN` and `DOUT` ranges are mapped is log entry 18. -/
def Obligations.OnlyUnadmittedAccessRefused : Prop :=
  (∀ (s : State) (size addr : Nat) (v : Word) (rest : List Event),
    let admitted := size = 4 ∧ addr % 4 = 0 ∧
      (addr ≤ 0x037 ∨ (0x040 ≤ addr ∧ addr ≤ 0x04B) ∨ (0x050 ≤ addr ∧ addr ≤ 0x057) ∨ (0x400 ≤ addr ∧ addr ≤ 0x7FF) ∨
        (0x800 ≤ addr ∧ addr ≤ 0xC0F))
    (s.agenda = .read size addr :: rest → ((∃ e, step s = .refused e) ↔ ¬admitted)) ∧
      (s.agenda = .write size addr v :: rest → ((∃ e, step s = .refused e) ↔ ¬admitted))) ∧
  ∀ (s : State) (e : Refusal), step s = .refused e →
    ∃ size addr rest, s.agenda = .read size addr :: rest ∨ ∃ v, s.agenda = .write size addr v :: rest

/-- R37, and R22's "a host read of a `KEY` word returns zero at all times": no host read depends on a transient register or
on `KEY`, and a `KEY` word reads zero. -/
def Obligations.HiddenRegistersUnreadable : Prop :=
  ∀ (s : State) (r : MapReg) (key : List Byte) (ctr : BitVec 21) (ksnr : BitVec 64) (curkey res : List Byte)
    (rlen : BitVec 11) (perr : BitVec 16),
    readValue
        { s with key := key, ctr := ctr, ksnr := ksnr, curkey := curkey, res := res, rlen := rlen, perr := perr } r =
      readValue s r ∧
    ∀ off, readValue s (.key off) = 0#32

/-! ### The sequencer -/

/-- R230: with `BUSY = 0` no engine step is enabled and the state stays; in every state of the invariant with `BUSY = 1`
exactly one is, so that the engine's turn never faults. -/
def Obligations.EngineStepEnabled : Prop :=
  ∀ s : State,
    (s.busy = false → engineStep s = none ∧ engineTurn s = .next s) ∧
    (s.inv = true → s.busy = true → ∃ t, engineStep s = some t ∧ engineTurn s = .next t) ∧
    (s.inv = true → ∀ f, step s ≠ .fault f)

/-- R236, R237, R238: one `WK_ITER` step. The key step uses the NEW `KSNR`; the shift ends the step; the exit is taken
when the shift leaves zero. -/
def Obligations.WkIterStep : Prop :=
  ∀ (s : State) (op : Instr), s.inv = true → s.busy = true → s.stage = .wkIter → decode s.cmd = .ok op →
    op = .deriveWk ∨ op = .deriveKey ∨ op = .decryptTrack →
    let ksnr := if s.sr &&& s.ctr ≠ 0#21 then s.ksnr ||| s.sr.setWidth 64 else s.ksnr
    let cur := if s.sr &&& s.ctr ≠ 0#21 then generateKey s.curkey (bytesN 8 ksnr.toNat) else s.curkey
    (s.sr >>> 1 ≠ 0#21 → engineStep s = some { s with ksnr := ksnr, curkey := cur, sr := s.sr >>> 1 }) ∧
    (s.sr >>> 1 = 0#21 → op = .deriveWk → engineStep s = some
      { s with
        ksnr := ksnr, curkey := cur, sr := 0#21, res := cur, rlen := 16#11, stage := .finish }) ∧
    (s.sr >>> 1 = 0#21 → op ≠ .deriveWk → engineStep s = some
      { s with ksnr := ksnr, curkey := cur, sr := 0#21, stage := .session })

/-- R244: the `FINISH` step, in both cases, and that no other engine step touches `DOUT`, `OLEN`, `ERR`, `ERRCODE`,
`DONE` or clears `BUSY`. -/
def Obligations.FinishPublishes : Prop :=
  ∀ (s : State) (op : Instr), s.busy = true → decode s.cmd = .ok op →
    (s.stage = .finish → s.perr ≠ 0#16 → engineStep s = some
      { s with
        err := true, errcode := s.perr, ctr := 0#21, ksnr := 0#64, curkey := zeros 16, sr := 0#21, res := []
        rlen := 0#11, perr := 0#16, done := true, busy := false, stage := .idle }) ∧
    (s.stage = .finish → s.perr = 0#16 → s.res.length = s.rlen.toNat → engineStep s = some
      { s with
        dout := s.res ++ s.dout.drop s.res.length, olen := s.rlen, ctr := 0#21, ksnr := 0#64, curkey := zeros 16
        sr := 0#21, res := [], rlen := 0#11, perr := 0#16, done := true, busy := false, stage := .idle }) ∧
    ∀ t, s.stage ≠ .finish → engineStep s = some t →
      t.dout = s.dout ∧ t.olen = s.olen ∧ t.err = s.err ∧ t.errcode = s.errcode ∧ t.done = s.done ∧ t.busy = true

/-- R241: the complete transition relation of `STAGE` under an engine step. -/
def Obligations.StageTransitions : Prop :=
  ∀ (s t : State) (op : Instr), s.inv = true → decode s.cmd = .ok op → engineStep s = some t →
    (s.stage = .exec → t.stage = .finish) ∧
    (s.stage = .ipek → t.stage = if op = .deriveIpek then .finish else .wkInit) ∧
    (s.stage = .wkInit → t.stage = .wkIter) ∧
    (s.stage = .wkIter →
      t.stage = if s.sr ≠ 1#21 then .wkIter else if op = .deriveWk then .finish else .session) ∧
    (s.stage = .session → t.stage = if op = .decryptTrack then .track else .finish) ∧
    (s.stage = .track → t.stage = .finish) ∧
    (s.stage = .finish → t.stage = .idle) ∧
    s.stage ≠ .idle ∧ t.cmd = s.cmd

/-- R242, R231: every started command ends after exactly its number of engine steps, whatever its operands. -/
def Obligations.EveryCommandEnds : Prop :=
  ∀ (s : State) (i : Instr), s.inv = true → s.busy = false → startError i s = none →
    let steps := if i = .deriveWk then 23 else if i = .deriveKey then 25 else if i = .decryptTrack then 26 else 2
    (∀ n, n < steps → ∃ t, engineRun n (startCommand (encode i) s) = some t ∧ t.busy = true) ∧
      ∃ t, engineRun steps (startCommand (encode i) s) = some t ∧ t.busy = false ∧ t.done = true ∧ t.stage = .idle

/-- R246: the two views agree. From an idle state, the `CMD` write of the sequencer view followed by the engine's steps
reaches the state the functional view gives, in every register. -/
def Obligations.ViewsAgree : Prop :=
  ∀ (s : State) (i : Instr), s.inv = true → s.busy = false →
    runSteps (1 + engineSteps i) { s with agenda := [.write 4 0x000 (encode i)] } = exec i { s with agenda := [] }

/-- R243: the loop invariant of the working-key derivation: it holds on entry at `SR = 2^20`, each `WK_ITER` step takes it
from `SR = 2^(k+1)` to `SR = 2^k`, and at the exit `KSNR` is the KSN's low 8 bytes and `CURKEY` the working key. -/
def Obligations.WorkingKeyLoopInvariant : Prop :=
  ∀ (s t : State) (ipek : List Byte), s.inv = true → engineStep s = some t →
    (s.stage = .wkInit → s.curkey = ipek → t.stage = .wkIter ∧ t.loopInv 20 ipek) ∧
    (∀ k, k < 20 → s.stage = .wkIter → s.loopInv (k + 1) ipek → t.stage = .wkIter ∧ t.loopInv k ipek) ∧
    (s.stage = .wkIter → s.loopInv 0 ipek →
      t.stage ≠ .wkIter ∧ t.sr = 0#21 ∧ t.ksnr.toNat = val (last8 s.ksn) ∧ t.curkey = deriveWorkingKey s.ksn ipek)

/-- The invariant `State.inv` (sizes of R20; R30, R33, R34, R37, R245) holds at reset, for every allowed parameter. -/
def Obligations.InvAtReset : Prop :=
  State.reset.inv = true ∧ ∀ p : Params, p.wellFormed = true → (State.resetOf p).inv = true

/-- Every step keeps the invariant `State.inv`, and no step changes the parameters. -/
def Obligations.EveryStepKeepsInv : Prop :=
  ∀ s t : State, s.inv = true → step s = .next t → t.inv = true ∧ t.params = s.params

/-- R245, R30: the state-machine invariants, of every state that any sequence of host accesses, commands, engine steps and
resets reaches from reset, for every allowed value of the parameters. -/
def Obligations.ReachableStates : Prop :=
  ∀ (p : Params) (es : List Event) (n : Nat) (s : State), p.wellFormed = true →
    runSteps n { State.resetOf p with agenda := es } = .next s →
    (s.stage = .idle ↔ s.busy = false) ∧ (s.sr ≠ 0#21 → s.stage = .wkIter) ∧
    (s.busy = true → s.done = false ∧ s.err = false ∧ s.errcode = 0#16 ∧ s.olen = 0#11 ∧ ∀ b ∈ s.dout, b = 0#8) ∧
    (s.busy = false → s.ctr = 0#21 ∧ s.ksnr = 0#64 ∧ s.curkey = zeros 16 ∧ s.res = [] ∧ s.perr = 0#16) ∧
    (s.err = true → s.done = true ∧ s.olen = 0#11 ∧ s.errcode ≠ 0#16) ∧ (s.err = false → s.errcode = 0#16) ∧
    (s.perr = 0#16 ∨ (s.perr = 0x0302#16 ∧ s.stage = .finish))

/-- R247, R241: the sequence of (`STAGE`, `SR`) values is the same for every key, every counter and every datum. -/
def Obligations.ControlFlowIndependentOfOperands : Prop :=
  ∀ (s1 s2 t1 : State) (n : Nat), s1.inv = true → s2.inv = true → s1.busy = true → s2.busy = true →
    s1.cmd = s2.cmd → s1.stage = s2.stage → s1.sr = s2.sr → engineRun n s1 = some t1 →
    ∃ t2, engineRun n s2 = some t2 ∧ t1.stage = t2.stage ∧ t1.sr = t2.sr ∧ t1.busy = t2.busy

/-! ### Reset -/

/-- R40, R310, R313: reset, at any time and in any state, leaves every register zero; only the model's own fields, which
are not hardware, stay. R311: every
mapped address reads `0x00000000` after it. -/
def Obligations.ResetFromAnyState : Prop :=
  (∀ (s : State) (rest : List Event), s.agenda = .reset :: rest →
    step s = .next
      { key := zeros 24, klen := 0#5, ksn := zeros 10, iv := zeros 8, din := zeros s.params.dataMax, dlen := 0#11
        dout := zeros (s.params.dataMax + 16), olen := 0#11, cmd := 0#32, busy := false, done := false, err := false
        errcode := 0#16, stage := .idle, sr := 0#21, ctr := 0#21, ksnr := 0#64, curkey := zeros 16, res := []
        rlen := 0#11, perr := 0#16, params := s.params, agenda := rest, returned := s.returned }) ∧
    ∀ (p : Params) (addr : Nat) (r : MapReg), mapAddr addr = some r → readValue (State.resetOf p) r = 0#32

/-! ### The ciphers -/

/-- R133: block decryption is the inverse of block encryption, both ways, for each algorithm. -/
def Obligations.BlockCiphersInvert : Prop :=
  ∀ (alg : Alg) (k x : List Byte), k.length = keyLength alg → x.length = blockWidth alg →
    blockDecrypt alg k (blockEncrypt alg k x) = x ∧ blockEncrypt alg k (blockDecrypt alg k x) = x

/-- R153: decryption undoes encryption, with and without unpadding, and the other way where it succeeds. -/
def Obligations.DecryptEncryptRoundTrip : Prop :=
  ∀ (alg : Alg) (key data c p : List Byte), key.length = keyLength alg →
    (encrypt alg key data = .ok c → decrypt true alg key c = .ok data ∧
      decrypt false alg key c = .ok (pkcs7Pad data (blockWidth alg))) ∧
    (decrypt true alg key c = .ok p → encrypt alg key p = .ok c)

/-- R142: the first block law. -/
def Obligations.FirstBlockLaw : Prop :=
  ∀ key data : List Byte, 8 ≤ data.length →
    first8 (ecbEncrypt .des key data) = desE key (data.take 8) ∧
      first8 (ecbEncrypt .tdes key data) = tdesE key (data.take 8)

/-- R152, R173: 3DES under a key repeated three times is DES. -/
def Obligations.TripleDesOfEqualKeysIsDes : Prop :=
  ∀ k x : List Byte, k.length = 8 → x.length = 8 →
    tdesE (k ++ k ++ k) x = desE k x ∧ tdesD (k ++ k ++ k) x = desD k x

/-- R165: two keys that differ only in the least significant bits of their bytes give the same function. -/
def Obligations.ParityBitsIgnored : Prop :=
  ∀ k1 k2 x : List Byte, k1.length = 8 → k2.length = 8 →
    (∀ i, i < 8 → (k1.getD i 0#8).toNat / 2 = (k2.getD i 0#8).toNat / 2) →
    desE k1 x = desE k2 x ∧ desD k1 x = desD k2 x

/-! ### The derivation -/

/-- R202: the IPEK does not depend on `KSN[8]`, `KSN[9]` or the low 5 bits of `KSN[7]`. -/
def Obligations.IpekIgnoresCounter : Prop :=
  ∀ bdk ksn1 ksn2 : List Byte, ksn1.length = 10 → ksn2.length = 10 → val ksn1 / 2 ^ 21 = val ksn2 / 2 ^ 21 →
    deriveIPEK bdk ksn1 = deriveIPEK bdk ksn2

/-- R212: a zero counter gives the IPEK back, and `KSN[0]`, `KSN[1]` have no influence on the working key. -/
def Obligations.WorkingKeyCorners : Prop :=
  ∀ ksn1 ksn2 ipek : List Byte, ksn1.length = 10 → ksn2.length = 10 →
    (val ksn1 % 2 ^ 21 = 0 → deriveWorkingKey ksn1 ipek = ipek) ∧
      (ksn1.drop 2 = ksn2.drop 2 → deriveWorkingKey ksn1 ipek = deriveWorkingKey ksn2 ipek)

/-- R99: `deriveKey` as one command and as three commands whose results the host carries through `DOUT` and `KEY`, over
the register interface in the functional view, whatever turns the engine has before each poll: both scripts end, and
both name `deriveKey(bdk, ksn)` as `sk`. -/
def Obligations.DeriveKeyInThreeCommands : Prop :=
  ∀ (s : State) (bdk ksn : List Byte) (polls : List Nat), s.inv = true → s.busy = false →
    bdk.length = 16 ∨ bdk.length = 24 → ksn.length = 10 → 3 ≤ polls.length →
    ∀ script ∈ [scriptDeriveKey bdk ksn, scriptDeriveKeyByStages bdk ksn],
      ∃ t env, runStmts .functional script s (HostEnv.start polls) = .ok (t, env) ∧ t.err = false ∧
        env.names.lookup "sk" = some (deriveKey bdk ksn)

/-! ### The host's side -/

/-- R262: `bytesFromHex` removes spaces and rejects an odd length and any character that is not a hex digit, upper- or
lower-case alike; everything else it accepts. -/
def Obligations.HexParsingIsStrict : Prop :=
  ∀ cs : List Char,
    let clean := cs.filter fun c => c ≠ ' '
    let digit := fun c : Char => ('0' ≤ c ∧ c ≤ '9') ∨ ('A' ≤ c ∧ c ≤ 'F') ∨ ('a' ≤ c ∧ c ≤ 'f')
    (clean.length % 2 = 1 ∨ (∃ c ∈ clean, ¬digit c) → bytesFromHex cs = .error .malformedHex) ∧
      (clean.length % 2 = 0 → (∀ c ∈ clean, digit c) → ∃ b, bytesFromHex cs = .ok b ∧ 2 * b.length = clean.length)

/-- R263: the two round trips of the codec, and the length of its strings. -/
def Obligations.HexRoundTrip : Prop :=
  (∀ b : List Byte, bytesFromHex (hexFromBytes b) = .ok b ∧ (hexFromBytes b).length = 2 * b.length) ∧
    ∀ (cs : List Char) (b : List Byte), bytesFromHex cs = .ok b →
      hexFromBytes b = (cs.filter fun c => c ≠ ' ').map Char.toUpper

/-- R264: `hexToAscii` rejects a byte of value 128 or more, and otherwise gives one character for each byte. -/
def Obligations.AsciiIsStrict : Prop :=
  ∀ b : List Byte,
    ((∃ x ∈ b, 128 ≤ x.toNat) → hexToAscii b = .error .malformedHex) ∧
      ((∀ x ∈ b, x.toNat < 128) → hexToAscii b = .ok (b.map fun x => Char.ofNat x.toNat))

/-- R265: the host procedure `decryptTrack` over the register interface answers what its steps say: the decryption of the
decoded ciphertext under the derived key, rendered as characters, or the typed failure. -/
def Obligations.DecryptTrackProcedure : Prop :=
  ∀ (s : State) (polls : List Nat) (ctHex ksnHex : List Char) (ct ksn bdk : List Byte), s.inv = true →
    s.busy = false → polls ≠ [] → bdk.length = 16 ∨ bdk.length = 24 →
    bytesFromHex ctHex = .ok ct → bytesFromHex ksnHex = .ok ksn → ksn.length = 10 → ct.length ≤ s.params.dataMax →
    ∃ t, decryptTrack .functional polls ctHex ksnHex bdk s = .ok
      ((match decrypt s.params.decUnpad .aes (deriveKey bdk ksn) ct with
        | .ok plain => hexToAscii plain
        | .error _ => .error .cipherOperationFailed),
        t)

/-! ### Several instances -/

/-- R74, R300: a step of one instance is that instance's own step and touches no other instance. -/
def Obligations.InstancesShareNothing : Prop :=
  ∀ (sys sys' : List State) (k : Nat) (s : State), sys[k]? = some s → stepInstance k sys = .next sys' →
    (∃ t, step s = .next t ∧ sys'[k]? = some t) ∧ sys'.length = sys.length ∧ ∀ j, j ≠ k → sys'[j]? = sys[j]?

/-! ### Scripts -/

/-- R98, the statements `RUN`, `OUT`, `EXPECT`, from an idle state of the invariant. `RUN` ends, once the engine has had
its turns (log entry 15), in the state `exec` gives, with `k` polls that read `BUSY` and one that reads `DONE`; with too
few turns it polls on. `OUT` reads `OLEN` and then `DOUT`, and names the first `OLEN` bytes. `EXPECT` reads its register
and records whether the claim held. (That the words read join `returned` is log entry 4.) -/
def Obligations.ScriptStatements : Prop :=
  ∀ (s : State) (env : HostEnv) (v : View), s.inv = true → s.busy = false →
    let s0 := { s with agenda := [] }
    (∀ (i : Instr) (u : State), exec i s0 = .next u → env.polls ≠ [] →
      v = .functional ∨ engineSteps i ≤ env.polls.sum →
      ∃ k, k < env.polls.length ∧ (v = .functional → k = 0) ∧
        runStmt v (.run i) s env = .ok
          ({ u with
              returned := s.returned ++ List.replicate k (0x004, 0x00000001#32) ++
                [(0x004, if u.err then 0x00000006#32 else 0x00000002#32)] },
            { env with polls := env.polls.drop (k + 1) })) ∧
    (∀ i : Instr, startError i s = none → env.polls.sum < engineSteps i →
      runStmt .sequencer (.run i) s env = .error .stillPolling) ∧
    (∀ name : String, runStmt v (.out name) s env = .ok
      ({ s0 with
          returned := s.returned ++ (0x014, s.olen.setWidth 32) ::
            (List.range ((s.olen.toNat + 3) / 4)).map fun w => (0x800 + 4 * w, readWord s.dout (4 * w)) },
        { env with names := (name, s.dout.take s.olen.toNat) :: env.names })) ∧
    ∀ (r : MapReg) (w : Word), admittedReg 4 (regAddr r) = .ok r →
      runStmt v (.expect r w) s env = .ok
        ({ s0 with returned := s.returned ++ [(regAddr r, readValue s r)] },
          { env with claims := env.claims ++ [decide (readValue s r = w)] })
end

