-- ==== Sys2Proof/Laws/Bytes.lean ====
section
/-! SUPPORT. What the byte-sequence operations do: lengths, values, and reading back what was written. -/

namespace Sys2Proof.Machine

@[simp] theorem zeros_length (n : Nat) : (zeros n).length = n := List.length_replicate

@[simp] theorem zeros_zero : zeros 0 = [] := rfl

@[simp] theorem zeros_drop (n m : Nat) : (zeros n).drop m = zeros (n - m) := List.drop_replicate

/-! ### `val` and `bytesN` (R10) -/

@[simp] theorem val_nil : val [] = 0 := rfl

theorem val_foldl (b : List Byte) (acc : Nat) :
    b.foldl (fun acc x => acc * 256 + x.toNat) acc = acc * 256 ^ b.length + val b := by
  induction b generalizing acc with
  | nil => simp
  | cons x rest ih =>
    have h : val (x :: rest) = x.toNat * 256 ^ rest.length + val rest := by
      rw [← ih x.toNat]; simp [val]
    rw [List.foldl_cons, ih, h, List.length_cons]
    ring

theorem val_cons (x : Byte) (b : List Byte) : val (x :: b) = x.toNat * 256 ^ b.length + val b := by
  have h := val_foldl b x.toNat
  simpa [val] using h

theorem val_append (a b : List Byte) : val (a ++ b) = val a * 256 ^ b.length + val b := by
  have h := val_foldl b (val a)
  rw [← h]
  simp [val, List.foldl_append]

theorem val_lt (b : List Byte) : val b < 256 ^ b.length := by
  induction b with
  | nil => simp
  | cons x rest ih =>
    rw [val_cons, List.length_cons, Nat.pow_succ]
    have hx := x.isLt
    nlinarith [Nat.pow_pos (n := rest.length) (show 0 < 256 by decide)]

@[simp] theorem val_zeros (n : Nat) : val (zeros n) = 0 := by
  induction n with
  | zero => rfl
  | succ n ih =>
    have h : zeros (n + 1) = 0#8 :: zeros n := rfl
    rw [h, val_cons, ih]
    simp

@[simp] theorem bytesN_length (n v : Nat) : (bytesN n v).length = n := by
  induction n with
  | zero => rfl
  | succ n ih => simp [bytesN, ih]

/-- R10: `bytes_n(v)` has the value `v mod 256^n`. -/
theorem val_bytesN (n v : Nat) : val (bytesN n v) = v % 256 ^ n := by
  induction n with
  | zero => simp [bytesN, Nat.mod_one]
  | succ n ih =>
    rw [bytesN, val_cons, ih, bytesN_length, BitVec.toNat_ofNat, show 256 ^ (n + 1) = 256 ^ n * 256 from pow_succ 256 n,
      Nat.mod_mul, Nat.add_comm, Nat.mul_comm, show (2 : Nat) ^ 8 = 256 from rfl]

/-- `bytes_n(v)` depends on `v` only modulo `256^n`. -/
theorem bytesN_mod (n v : Nat) : bytesN n (v % 256 ^ n) = bytesN n v := by
  suffices h : ∀ m, n ≤ m → bytesN n (v % 256 ^ m) = bytesN n v from h n le_rfl
  induction n with
  | zero => intro m _; rfl
  | succ n ih =>
    intro m hm
    obtain ⟨k, rfl⟩ : ∃ k, m = n + 1 + k := ⟨m - (n + 1), by omega⟩
    have h1 : 256 ^ (n + 1 + k) = 256 ^ n * (256 * 256 ^ k) := by ring
    simp only [bytesN]
    rw [ih _ (by omega)]
    congr 1
    apply BitVec.eq_of_toNat_eq
    simp only [BitVec.toNat_ofNat]
    rw [h1, Nat.mod_mul_right_div_self]
    exact Nat.mod_mul_right_mod _ _ _

/-- R10: a byte sequence is the sequence of its own value. -/
theorem bytesN_val (b : List Byte) : bytesN b.length (val b) = b := by
  induction b with
  | nil => rfl
  | cons x rest ih =>
    have hlt := val_lt rest
    have hdiv : val (x :: rest) / 256 ^ rest.length = x.toNat := by
      rw [val_cons, Nat.mul_comm, Nat.mul_add_div (Nat.pow_pos (by decide)), Nat.div_eq_of_lt hlt, Nat.add_zero]
    have hmod : val (x :: rest) % 256 ^ rest.length = val rest := by
      rw [val_cons, Nat.mul_comm, Nat.mul_add_mod, Nat.mod_eq_of_lt hlt]
    rw [List.length_cons, bytesN, hdiv, ← bytesN_mod, hmod, ih]
    simp

/-- Two sequences of one length with one value are equal. -/
theorem val_injective {a b : List Byte} (hl : a.length = b.length) (hv : val a = val b) : a = b := by
  rw [← bytesN_val a, ← bytesN_val b, hl, hv]

/-! ### Slices, padding, `xor` and `and` (R12, R110 to R112) -/

theorem lpad_length (a : List Byte) (n : Nat) : (lpad a n).length = max n a.length := by
  simp [lpad]; omega

theorem lpad_self (a : List Byte) : lpad a a.length = a := by simp [lpad]

/-- R110: left padding keeps the value. -/
theorem val_lpad (a : List Byte) (n : Nat) : val (lpad a n) = val a := by simp [lpad, val_append]

/-- R114 (b): the result is as long as the longer operand. -/
@[simp] theorem xorBytes_length (a b : List Byte) : (xorBytes a b).length = max a.length b.length := by
  simp [xorBytes, lpad_length]

/-- R114 (b): the result is as long as the longer operand. -/
@[simp] theorem andBytes_length (a b : List Byte) : (andBytes a b).length = max a.length b.length := by
  simp [andBytes, lpad_length]

theorem first8_length (b : List Byte) : (first8 b).length = min 8 b.length := by simp [first8]

theorem last8_length (b : List Byte) : (last8 b).length = min 8 b.length := by simp [last8]; omega

theorem low3BytesOf_length (b : List Byte) : (low3BytesOf b).length = min 3 b.length := by simp [low3BytesOf]; omega

/-- A value is unchanged by dropping bytes from the front, modulo the weight of what is left. -/
theorem val_drop (b : List Byte) (k : Nat) : val (b.drop k) = val b % 256 ^ (b.length - k) := by
  have h := val_append (b.take k) (b.drop k)
  rw [List.take_append_drop] at h
  have hlt := val_lt (b.drop k)
  rw [List.length_drop] at h hlt
  rw [h, Nat.mul_comm, Nat.mul_add_mod, Nat.mod_eq_of_lt hlt]

/-! ### Words of an array (R64) -/

@[simp] theorem writeWord_length (arr : List Byte) (off : Nat) (v : Word) : (writeWord arr off v).length = arr.length := by
  simp [writeWord]

/-- A write leaves every byte outside its four alone. -/
theorem writeWord_frame (arr : List Byte) (off j : Nat) (v : Word) (h : j < off ∨ off + 4 ≤ j) :
    (writeWord arr off v)[j]? = arr[j]? := by
  simp only [writeWord, List.getElem?_set]
  grind

/-- A word that lies inside the array reads back as it was written (R64). -/
theorem readWord_writeWord (arr : List Byte) (off : Nat) (v : Word) (h : off + 4 ≤ arr.length) :
    readWord (writeWord arr off v) off = v := by
  have h0 : (writeWord arr off v).getD off 0#8 = v.extractLsb' 24 8 := by
    simp only [writeWord, List.getD_eq_getElem?_getD, List.getElem?_set, List.length_set]; grind
  have h1 : (writeWord arr off v).getD (off + 1) 0#8 = v.extractLsb' 16 8 := by
    simp only [writeWord, List.getD_eq_getElem?_getD, List.getElem?_set, List.length_set]; grind
  have h2 : (writeWord arr off v).getD (off + 2) 0#8 = v.extractLsb' 8 8 := by
    simp only [writeWord, List.getD_eq_getElem?_getD, List.getElem?_set, List.length_set]; grind
  have h3 : (writeWord arr off v).getD (off + 3) 0#8 = v.extractLsb' 0 8 := by
    simp only [writeWord, List.getD_eq_getElem?_getD, List.getElem?_set, List.length_set]; grind
  rw [readWord, h0, h1, h2, h3]
  apply BitVec.eq_of_getLsbD_eq
  intro i hi
  simp only [BitVec.getLsbD_append, BitVec.getLsbD_extractLsb']
  grind

end Sys2Proof.Machine
end

