-- ==== Sys2Proof/Laws/Cipher.lean ====
section
/-! SUPPORT. What the block functions and the cipher engine do: the spec of a permutation table, the lengths of every
result, and `encrypt` and `decrypt` in one lemma each. -/

namespace Sys2Proof.Machine

/-! ### Permutation tables (R161) -/

/-- The bits a table fold collects: bit `j` of the result is the table's entry `j` places from its end. -/
theorem permute_fold_testBit {n : Nat} (x : BitVec n) (t : List Nat) (acc j : Nat) :
    (t.foldl (fun acc i => 2 * acc + (x.getMsbD (i - 1)).toNat) acc).testBit j =
      if j < t.length then x.getMsbD (t.getD (t.length - 1 - j) 0 - 1) else acc.testBit (j - t.length) := by
  induction t generalizing acc with
  | nil => simp
  | cons a rest ih =>
    rw [List.foldl_cons, ih]
    by_cases h : j < rest.length
    · have e : rest.length + 1 - 1 - j = (rest.length - 1 - j) + 1 := by omega
      simp only [h, if_true, List.length_cons, e, List.getD_cons_succ]
      rw [if_pos (by omega)]
    · by_cases h2 : j = rest.length
      · subst h2
        cases hb : x.getMsbD (a - 1) <;> simp [hb]
      · have e : j - rest.length = (j - (rest.length + 1)) + 1 := by omega
        rw [if_neg h, if_neg (by simp; omega), e, Nat.testBit_succ]
        congr 1
        cases hb : x.getMsbD (a - 1) <;> (simp; try omega)

/-- R161: bit `i + 1` of the result, counted from the left, is bit `t[i + 1]` of `x`. -/
theorem permute_getMsbD {n m : Nat} (t : List Nat) (x : BitVec n) (ht : t.length = m) (i : Nat) (hi : i < m) :
    (permute m t x).getMsbD i = x.getMsbD (t.getD i 0 - 1) := by
  subst ht
  rw [BitVec.getMsbD_eq_getLsbD]
  simp only [hi, decide_true, Bool.true_and, permute, BitVec.getLsbD_ofNat, permute_fold_testBit]
  have h : t.length - 1 - (t.length - 1 - i) = i := by omega
  simp only [h]
  have h2 : t.length - 1 - i < t.length := by omega
  simp [h2]

/-! ### Lengths of the block functions -/

@[simp] theorem desE_length (k x : List Byte) : (desE k x).length = 8 := bytesN_length 8 _

@[simp] theorem desD_length (k x : List Byte) : (desD k x).length = 8 := bytesN_length 8 _

@[simp] theorem tdesE_length (k x : List Byte) : (tdesE k x).length = 8 := desE_length _ _

@[simp] theorem tdesD_length (k x : List Byte) : (tdesD k x).length = 8 := desD_length _ _

@[simp] theorem stateOf_length (f : Nat → Nat → Byte) : (stateOf f).length = 16 := by simp [stateOf]

/-- R181: byte `r + 4c` of a state is `s[r][c]`. -/
theorem stateOf_getD (f : Nat → Nat → Byte) (k : Nat) (hk : k < 16) : (stateOf f).getD k 0#8 = f (k % 4) (k / 4) := by
  simp [stateOf, List.getD_eq_getElem?_getD, List.getElem?_map, List.getElem?_range hk]

@[simp] theorem subBytes_length (s : List Byte) : (subBytes s).length = s.length := by simp [subBytes]

@[simp] theorem invSubBytes_length (s : List Byte) : (invSubBytes s).length = s.length := by simp [invSubBytes]

@[simp] theorem shiftRows_length (s : List Byte) : (shiftRows s).length = 16 := by simp [shiftRows]

@[simp] theorem invShiftRows_length (s : List Byte) : (invShiftRows s).length = 16 := by simp [invShiftRows]

@[simp] theorem mixColumns_length (s : List Byte) : (mixColumns s).length = 16 := by simp [mixColumns, mixWith]

@[simp] theorem invMixColumns_length (s : List Byte) : (invMixColumns s).length = 16 := by simp [invMixColumns, mixWith]

@[simp] theorem addRoundKey_length (s rk : List Byte) : (addRoundKey s rk).length = min s.length rk.length := by
  simp [addRoundKey]

theorem keyCore_length (j : Nat) (t : List Byte) (h : t.length = 4) : (keyCore j t).length = 4 := by
  simp [keyCore, h]

/-- Every word of the key expansion has four bytes, and there are `n + 4` of them (R187). -/
theorem aesKeyWords_spec (k : List Byte) (hk : k.length = 16) (n : Nat) :
    (aesKeyWords k n).length = n + 4 ∧ ∀ w ∈ aesKeyWords k n, w.length = 4 := by
  induction n with
  | zero => simp [aesKeyWords, hk]
  | succ n ih =>
    obtain ⟨hl, hw⟩ := ih
    have hget : ∀ i, i < n + 4 → ((aesKeyWords k n).getD i []).length = 4 := by
      intro i hi
      rw [List.getD_eq_getElem?_getD, List.getElem?_eq_getElem (by omega)]
      exact hw _ (List.getElem_mem _)
    refine ⟨by simp [aesKeyWords, hl], ?_⟩
    intro w hmem
    simp only [aesKeyWords, List.mem_append, List.mem_singleton] at hmem
    rcases hmem with h | rfl
    · exact hw w h
    · have h3 := hget (n + 4 - 1) (by omega)
      have h0 := hget (n + 4 - 4) (by omega)
      simp only [nextKeyWord]
      split <;> simp only [List.length_zipWith, h0, h3, keyCore_length _ _ h3] <;> rfl

/-- R187: eleven round keys of sixteen bytes. -/
theorem aesRoundKeys_spec (k : List Byte) (hk : k.length = 16) :
    (aesRoundKeys k).length = 11 ∧ ∀ rk ∈ aesRoundKeys k, rk.length = 16 := by
  obtain ⟨hl, hw⟩ := aesKeyWords_spec k hk 40
  refine ⟨by simp [aesRoundKeys], ?_⟩
  intro rk hmem
  simp only [aesRoundKeys, List.mem_map, List.mem_range] at hmem
  obtain ⟨n, hn, rfl⟩ := hmem
  have hq : (((aesKeyWords k 40).drop (4 * n)).take 4).length = 4 := by
    rw [List.length_take, List.length_drop, hl]; omega
  rw [List.length_flatten]
  have hall : ∀ w ∈ ((aesKeyWords k 40).drop (4 * n)).take 4, w.length = 4 := fun w h =>
    hw w (List.mem_of_mem_drop (List.mem_of_mem_take h))
  rw [List.map_congr_left hall, List.map_const', hq]
  rfl

theorem aesRounds_length (rks : List (List Byte)) (s : List Byte) (hs : s.length = 16)
    (h : ∀ rk ∈ rks, rk.length = 16) : (aesRounds rks s).length = 16 := by
  induction rks generalizing s with
  | nil => exact hs
  | cons rk rest ih =>
    have hrk := h rk (by simp)
    cases rest with
    | nil => simp [aesRounds, hrk]
    | cons rk2 rest2 => exact ih _ (by simp [hrk]) (fun r hr => h r (by simp [hr]))

theorem aesInvRounds_length (rks : List (List Byte)) (s : List Byte) (hs : s.length = 16)
    (h : ∀ rk ∈ rks, rk.length = 16) : (aesInvRounds rks s).length = 16 := by
  induction rks generalizing s with
  | nil => exact hs
  | cons rk rest ih =>
    have hrk := h rk (by simp)
    cases rest with
    | nil => simp [aesInvRounds, hrk]
    | cons rk2 rest2 => exact ih _ (by simp) (fun r hr => h r (by simp [hr]))

theorem aesE_length (k x : List Byte) (hk : k.length = 16) (hx : x.length = 16) : (aesE k x).length = 16 := by
  obtain ⟨-, h⟩ := aesRoundKeys_spec k hk
  unfold aesE
  split
  · exact hx
  · rename_i rk0 rest heq
    rw [heq] at h
    exact aesRounds_length _ _ (by simp [hx, h rk0 (by simp)]) (fun r hr => h r (by simp [hr]))

theorem aesD_length (k y : List Byte) (hk : k.length = 16) (hy : y.length = 16) : (aesD k y).length = 16 := by
  obtain ⟨-, h⟩ := aesRoundKeys_spec k hk
  unfold aesD
  split
  · exact hy
  · rename_i rk10 rest heq
    have h' : ∀ rk ∈ rk10 :: rest, rk.length = 16 := fun r hr => h r (by rw [← heq] at hr; simpa using hr)
    exact aesInvRounds_length _ _ (by simp [hy, h' rk10 (by simp)]) (fun r hr => h' r (by simp [hr]))

theorem blockWidth_pos (alg : Alg) : 0 < blockWidth alg := by cases alg <;> decide

/-- A block encryption under a key of the right length gives a block. -/
theorem blockEncrypt_length (alg : Alg) (k x : List Byte) (hk : k.length = keyLength alg)
    (hx : x.length = blockWidth alg) : (blockEncrypt alg k x).length = blockWidth alg := by
  cases alg with
  | des => exact desE_length k x
  | tdes => exact tdesE_length k x
  | aes => exact aesE_length k x hk hx

/-- A block decryption under a key of the right length gives a block. -/
theorem blockDecrypt_length (alg : Alg) (k x : List Byte) (hk : k.length = keyLength alg)
    (hx : x.length = blockWidth alg) : (blockDecrypt alg k x).length = blockWidth alg := by
  cases alg with
  | des => exact desD_length k x
  | tdes => exact tdesD_length k x
  | aes => exact aesD_length k x hk hx

/-! ### Key expansion, ECB and padding (R134, R137, R138) -/

theorem expand3DES_length (k : List Byte) : (expand3DES k).length = 24 := by
  unfold expand3DES; split <;> simp_all

/-- R135: a 16-byte key `K1 ++ K2` expands to `K1 ++ K2 ++ K1`. -/
theorem expand3DES_double (k : List Byte) (hk : k.length = 16) : expand3DES k = k ++ k.take 8 := by
  have h : ∀ a0 a1 a2 a3 a4 a5 a6 a7 a8 a9 a10 a11 a12 a13 a14 a15 : Byte,
      expand3DES [a0, a1, a2, a3, a4, a5, a6, a7, a8, a9, a10, a11, a12, a13, a14, a15] =
        [a0, a1, a2, a3, a4, a5, a6, a7, a8, a9, a10, a11, a12, a13, a14, a15] ++ [a0, a1, a2, a3, a4, a5, a6, a7] := by
    intros; simp [expand3DES, List.range, List.range.loop]
  match k, hk with
  | [a0, a1, a2, a3, a4, a5, a6, a7, a8, a9, a10, a11, a12, a13, a14, a15], _ => exact h ..

theorem ecbBlocks_length (f : List Byte → List Byte) (b : Nat) (hf : ∀ x, x.length = b → (f x).length = b) (m : Nat)
    (d : List Byte) (hd : d.length = m * b) : (ecbBlocks f b m d).length = d.length := by
  induction m generalizing d with
  | zero => simp [ecbBlocks, hd]
  | succ m ih =>
    have h1 : (d.take b).length = b := by rw [List.length_take, hd, Nat.succ_mul]; omega
    have h2 : (d.drop b).length = m * b := by rw [List.length_drop, hd, Nat.succ_mul]; omega
    rw [ecbBlocks, List.length_append, hf _ h1, ih _ h2, h2, hd, Nat.succ_mul]
    omega

/-- R137: ECB keeps the length of whole blocks. -/
theorem ecb_length (f : List Byte → List Byte) (b : Nat) (hf : ∀ x, x.length = b → (f x).length = b) (d : List Byte)
    (hd : d.length % b = 0) : (ecb f b d).length = d.length :=
  ecbBlocks_length f b hf _ d (Nat.div_mul_cancel (Nat.dvd_of_mod_eq_zero hd)).symm

/-- R138: the padded length is the next multiple of `B` strictly above. -/
theorem pkcs7Pad_length (d : List Byte) (b : Nat) : (pkcs7Pad d b).length = d.length + (b - d.length % b) := by
  simp [pkcs7Pad]

theorem pkcs7Pad_length_mod (d : List Byte) (b : Nat) (hb : 0 < b) : (pkcs7Pad d b).length % b = 0 := by
  have h := Nat.div_add_mod d.length b
  have hlt := Nat.mod_lt d.length hb
  have e : d.length + (b - d.length % b) = b * (d.length / b + 1) := by rw [Nat.mul_add]; omega
  rw [pkcs7Pad_length, e, Nat.mul_mod_right]

/-- R140: the length of an encryption under a key of the right length. -/
theorem ecbEncrypt_length (alg : Alg) (key data : List Byte) (hk : key.length = keyLength alg) :
    (ecbEncrypt alg key data).length = data.length + (blockWidth alg - data.length % blockWidth alg) := by
  rw [ecbEncrypt, ecb_length _ _ (fun x hx => blockEncrypt_length alg key x hk hx) _
    (pkcs7Pad_length_mod _ _ (blockWidth_pos alg)), pkcs7Pad_length]

/-- R140: with a key of the right length `encrypt` cannot fail. -/
theorem encrypt_eq_ok (alg : Alg) (key data : List Byte) (hk : key.length = keyLength alg) :
    encrypt alg key data = .ok (ecbEncrypt alg key data) := by
  simp [encrypt, hk]

/-- R141: what `decrypt` answers where key and data have legal lengths. -/
theorem decrypt_legal (unpad : Bool) (alg : Alg) (key data : List Byte) (hk : key.length = keyLength alg)
    (h0 : data.length ≠ 0) (hd : data.length % blockWidth alg = 0) :
    decrypt unpad alg key data =
      if unpad then
        match pkcs7Unpad (ecb (blockDecrypt alg key) (blockWidth alg) data) (blockWidth alg) with
        | some r => .ok r
        | none => .error (cipherFailed 3#8)
      else .ok (ecb (blockDecrypt alg key) (blockWidth alg) data) := by
  cases unpad <;> simp [decrypt, hk, h0, hd] <;> split <;> simp_all

/-- R141: the three errors `decrypt` can raise. -/
theorem decrypt_error_cases (unpad : Bool) (alg : Alg) (key data : List Byte) (e : Err)
    (h : decrypt unpad alg key data = .error e) :
    e = cipherFailed 1#8 ∨ e = cipherFailed 2#8 ∨ (e = cipherFailed 3#8 ∧ unpad = true) := by
  unfold decrypt at h
  split at h
  · left; cases h; rfl
  · split at h
    · right; left; cases h; rfl
    · right; right
      dsimp only at h
      split at h
      · split at h
        · cases h
        · cases h; exact ⟨rfl, ‹_›⟩
      · cases h

theorem pkcs7Unpad_length (d r : List Byte) (b : Nat) (h : pkcs7Unpad d b = some r) : r.length ≤ d.length := by
  unfold pkcs7Unpad at h
  dsimp only at h
  split at h
  · cases h; simp
  · cases h

/-- A decryption delivers no more bytes than it was given. -/
theorem decrypt_length_le (unpad : Bool) (alg : Alg) (key data r : List Byte) (h : decrypt unpad alg key data = .ok r) :
    r.length ≤ data.length := by
  unfold decrypt at h
  split at h
  · cases h
  · rename_i hk
    split at h
    · cases h
    · rename_i hd
      have hd' : data.length % blockWidth alg = 0 := by
        by_contra hne; exact hd (Or.inr hne)
      have hl := ecb_length _ _ (fun x hx => blockDecrypt_length alg key x (by simpa using hk) hx) data hd'
      dsimp only at h
      split at h
      · split at h
        · rename_i r' hr
          cases h
          have := pkcs7Unpad_length _ _ _ hr
          omega
        · cases h
      · cases h; omega

end Sys2Proof.Machine
end

