-- ==== Sys2Proof/Laws/Dukpt.lean ====
section
/-! SUPPORT. What the derivation functions give: sizes (R7), and one step of the working-key loop. -/

namespace Sys2Proof.Machine

@[simp] theorem keyMask_length : keyMask.length = 16 := bytesN_length 16 _

@[simp] theorem dataMask_length : dataMask.length = 16 := bytesN_length 16 _

@[simp] theorem ksnMask10_length : ksnMask10.length = 10 := bytesN_length 10 _

@[simp] theorem ksnMask8_length : ksnMask8.length = 8 := bytesN_length 8 _

@[simp] theorem ctrMask_length : ctrMask.length = 3 := bytesN_length 3 _

/-- The first block of an encryption under a key of the right length exists: it has 8 bytes at least (R117, R140). -/
theorem first8_ecbEncrypt_length (alg : Alg) (key data : List Byte) (hk : key.length = keyLength alg) :
    (first8 (ecbEncrypt alg key data)).length = 8 := by
  rw [first8_length, ecbEncrypt_length alg key data hk]
  have hlt := Nat.mod_lt data.length (blockWidth_pos alg)
  have h8 : 8 ≤ blockWidth alg := by cases alg <;> decide
  have hdm := Nat.mod_le data.length (blockWidth alg)
  omega

/-- R201: the IPEK has 16 bytes. -/
@[simp] theorem deriveIPEK_length (bdk ksn : List Byte) : (deriveIPEK bdk ksn).length = 16 := by
  simp only [deriveIPEK, List.length_append]
  rw [first8_ecbEncrypt_length _ _ _ (expand3DES_length _), first8_ecbEncrypt_length _ _ _ (expand3DES_length _)]

/-- R205: the counter bits are 3 bytes. -/
theorem getCounterBits_length (ksn : List Byte) : (getCounterBits ksn).length = 3 := by
  rw [getCounterBits, andBytes_length, low3BytesOf_length, ctrMask_length]; omega

/-- R206: the base KSN is 8 bytes. -/
theorem baseKSN_length (ksn : List Byte) : (baseKSN ksn).length = 8 := by
  rw [baseKSN, andBytes_length, last8_length, ksnMask8_length]; omega

/-- R207: the crypto register has 8 bytes. -/
theorem encryptRegister_length (key ksn : List Byte) (hk : key.length = 16) : (encryptRegister key ksn).length = 8 := by
  have h : (first8 key).length = keyLength .des := by rw [first8_length, hk]; rfl
  simp only [encryptRegister, xorBytes_length]
  rw [first8_ecbEncrypt_length _ _ _ h, last8_length, hk]; rfl

/-- R208: the new key has 16 bytes. -/
theorem generateKey_length (key ksn : List Byte) (hk : key.length = 16) : (generateKey key ksn).length = 16 := by
  simp only [generateKey, List.length_append]
  rw [encryptRegister_length _ _ hk, encryptRegister_length _ _ (by simp [hk])]

/-- R210, one position of the loop whose counter bit is set. -/
theorem workingKeyLoop_set (ctr : BitVec 21) (n : Nat) (ksnr : BitVec 64) (cur : List Byte) (h : ctr.getLsbD n = true) :
    workingKeyLoop ctr (n + 1) ksnr cur =
      workingKeyLoop ctr n (ksnr ||| 1#64 <<< n) (generateKey cur (bytesN 8 (ksnr ||| 1#64 <<< n).toNat)) := by
  simp [workingKeyLoop, h]

/-- R210, one position of the loop whose counter bit is clear. -/
theorem workingKeyLoop_clear (ctr : BitVec 21) (n : Nat) (ksnr : BitVec 64) (cur : List Byte)
    (h : ctr.getLsbD n = false) : workingKeyLoop ctr (n + 1) ksnr cur = workingKeyLoop ctr n ksnr cur := by
  simp [workingKeyLoop, h]

/-- R210: the loop keeps the key's size. -/
theorem workingKeyLoop_length (ctr : BitVec 21) (n : Nat) (ksnr : BitVec 64) (cur : List Byte) (h : cur.length = 16) :
    (workingKeyLoop ctr n ksnr cur).length = 16 := by
  induction n generalizing ksnr cur with
  | zero => exact h
  | succ n ih =>
    cases hb : ctr.getLsbD n with
    | true => rw [workingKeyLoop_set _ _ _ _ hb]; exact ih _ _ (generateKey_length _ _ h)
    | false => rw [workingKeyLoop_clear _ _ _ _ hb]; exact ih _ _ h

/-- R210: the working key has 16 bytes. -/
theorem deriveWorkingKey_length (ksn ipek : List Byte) (h : ipek.length = 16) :
    (deriveWorkingKey ksn ipek).length = 16 := workingKeyLoop_length _ _ _ _ h

/-- R213: the session key has 16 bytes. -/
@[simp] theorem deriveSessionKey_length (wk : List Byte) : (deriveSessionKey wk).length = 16 := by
  simp only [deriveSessionKey, List.length_append]
  rw [first8_ecbEncrypt_length _ _ _ (expand3DES_length _), first8_ecbEncrypt_length _ _ _ (expand3DES_length _)]

/-- R213: the data key has 16 bytes, the key length of AES-128. -/
@[simp] theorem deriveKey_length (bdk ksn : List Byte) : (deriveKey bdk ksn).length = 16 := deriveSessionKey_length _

end Sys2Proof.Machine
end

