-- ==== Sys2Proof/Laws/HostSide.lean ====
section
/-! SUPPORT. What the character functions of the codec do. -/

namespace Sys2Proof.Machine

/-- R262: the characters that are hex digits, upper- or lower-case alike, and no others. -/
theorem hexDigit_isSome (c : Char) :
    (hexDigit c).isSome = true ↔ ('0' ≤ c ∧ c ≤ '9') ∨ ('A' ≤ c ∧ c ≤ 'F') ∨ ('a' ≤ c ∧ c ≤ 'f') := by
  simp only [hexDigit, Char.le_def, UInt32.le_iff_toNat_le, Char.toNat]
  norm_num
  split_ifs <;> simp <;> omega

/-- R262: a hex digit stands for a number below 16. -/
theorem hexDigit_lt (c : Char) (x : Nat) (h : hexDigit c = some x) : x < 16 := by
  unfold hexDigit at h
  split_ifs at h <;> simp at h <;> omega

end Sys2Proof.Machine
end

