-- ==== Sys2Proof/Laws/State.lean ====
section
/-! SUPPORT. One lemma for each field of `State` and each update of it, so that no later proof unfolds a record
update. -/

namespace Sys2Proof.Machine

/-! ### `beginCommand` -/

@[simp] theorem beginCommand_key (w : Word) (s : State) : (beginCommand w s).key = s.key := rfl
@[simp] theorem beginCommand_klen (w : Word) (s : State) : (beginCommand w s).klen = s.klen := rfl
@[simp] theorem beginCommand_ksn (w : Word) (s : State) : (beginCommand w s).ksn = s.ksn := rfl
@[simp] theorem beginCommand_iv (w : Word) (s : State) : (beginCommand w s).iv = s.iv := rfl
@[simp] theorem beginCommand_din (w : Word) (s : State) : (beginCommand w s).din = s.din := rfl
@[simp] theorem beginCommand_dlen (w : Word) (s : State) : (beginCommand w s).dlen = s.dlen := rfl
@[simp] theorem beginCommand_dout (w : Word) (s : State) : (beginCommand w s).dout = zeros s.params.doutMax := rfl
@[simp] theorem beginCommand_olen (w : Word) (s : State) : (beginCommand w s).olen = 0#11 := rfl
@[simp] theorem beginCommand_cmd (w : Word) (s : State) : (beginCommand w s).cmd = w := rfl
@[simp] theorem beginCommand_busy (w : Word) (s : State) : (beginCommand w s).busy = s.busy := rfl
@[simp] theorem beginCommand_done (w : Word) (s : State) : (beginCommand w s).done = false := rfl
@[simp] theorem beginCommand_err (w : Word) (s : State) : (beginCommand w s).err = false := rfl
@[simp] theorem beginCommand_errcode (w : Word) (s : State) : (beginCommand w s).errcode = 0#16 := rfl
@[simp] theorem beginCommand_stage (w : Word) (s : State) : (beginCommand w s).stage = s.stage := rfl
@[simp] theorem beginCommand_sr (w : Word) (s : State) : (beginCommand w s).sr = s.sr := rfl
@[simp] theorem beginCommand_ctr (w : Word) (s : State) : (beginCommand w s).ctr = s.ctr := rfl
@[simp] theorem beginCommand_ksnr (w : Word) (s : State) : (beginCommand w s).ksnr = s.ksnr := rfl
@[simp] theorem beginCommand_curkey (w : Word) (s : State) : (beginCommand w s).curkey = s.curkey := rfl
@[simp] theorem beginCommand_res (w : Word) (s : State) : (beginCommand w s).res = s.res := rfl
@[simp] theorem beginCommand_rlen (w : Word) (s : State) : (beginCommand w s).rlen = s.rlen := rfl
@[simp] theorem beginCommand_perr (w : Word) (s : State) : (beginCommand w s).perr = s.perr := rfl
@[simp] theorem beginCommand_params (w : Word) (s : State) : (beginCommand w s).params = s.params := rfl
@[simp] theorem beginCommand_agenda (w : Word) (s : State) : (beginCommand w s).agenda = s.agenda := rfl
@[simp] theorem beginCommand_returned (w : Word) (s : State) : (beginCommand w s).returned = s.returned := rfl

/-! ### `failAtStart` -/

@[simp] theorem failAtStart_key (e : Err) (s : State) : (failAtStart e s).key = s.key := rfl
@[simp] theorem failAtStart_klen (e : Err) (s : State) : (failAtStart e s).klen = s.klen := rfl
@[simp] theorem failAtStart_ksn (e : Err) (s : State) : (failAtStart e s).ksn = s.ksn := rfl
@[simp] theorem failAtStart_iv (e : Err) (s : State) : (failAtStart e s).iv = s.iv := rfl
@[simp] theorem failAtStart_din (e : Err) (s : State) : (failAtStart e s).din = s.din := rfl
@[simp] theorem failAtStart_dlen (e : Err) (s : State) : (failAtStart e s).dlen = s.dlen := rfl
@[simp] theorem failAtStart_dout (e : Err) (s : State) : (failAtStart e s).dout = s.dout := rfl
@[simp] theorem failAtStart_olen (e : Err) (s : State) : (failAtStart e s).olen = s.olen := rfl
@[simp] theorem failAtStart_cmd (e : Err) (s : State) : (failAtStart e s).cmd = s.cmd := rfl
@[simp] theorem failAtStart_busy (e : Err) (s : State) : (failAtStart e s).busy = s.busy := rfl
@[simp] theorem failAtStart_done (e : Err) (s : State) : (failAtStart e s).done = true := rfl
@[simp] theorem failAtStart_err (e : Err) (s : State) : (failAtStart e s).err = true := rfl
@[simp] theorem failAtStart_errcode (e : Err) (s : State) : (failAtStart e s).errcode = errWord e := rfl
@[simp] theorem failAtStart_stage (e : Err) (s : State) : (failAtStart e s).stage = s.stage := rfl
@[simp] theorem failAtStart_sr (e : Err) (s : State) : (failAtStart e s).sr = s.sr := rfl
@[simp] theorem failAtStart_ctr (e : Err) (s : State) : (failAtStart e s).ctr = s.ctr := rfl
@[simp] theorem failAtStart_ksnr (e : Err) (s : State) : (failAtStart e s).ksnr = s.ksnr := rfl
@[simp] theorem failAtStart_curkey (e : Err) (s : State) : (failAtStart e s).curkey = s.curkey := rfl
@[simp] theorem failAtStart_res (e : Err) (s : State) : (failAtStart e s).res = s.res := rfl
@[simp] theorem failAtStart_rlen (e : Err) (s : State) : (failAtStart e s).rlen = s.rlen := rfl
@[simp] theorem failAtStart_perr (e : Err) (s : State) : (failAtStart e s).perr = s.perr := rfl
@[simp] theorem failAtStart_params (e : Err) (s : State) : (failAtStart e s).params = s.params := rfl
@[simp] theorem failAtStart_agenda (e : Err) (s : State) : (failAtStart e s).agenda = s.agenda := rfl
@[simp] theorem failAtStart_returned (e : Err) (s : State) : (failAtStart e s).returned = s.returned := rfl

/-! ### `raiseInExecution` -/

@[simp] theorem raiseInExecution_key (e : Err) (s : State) : (raiseInExecution e s).key = s.key := rfl
@[simp] theorem raiseInExecution_klen (e : Err) (s : State) : (raiseInExecution e s).klen = s.klen := rfl
@[simp] theorem raiseInExecution_ksn (e : Err) (s : State) : (raiseInExecution e s).ksn = s.ksn := rfl
@[simp] theorem raiseInExecution_iv (e : Err) (s : State) : (raiseInExecution e s).iv = s.iv := rfl
@[simp] theorem raiseInExecution_din (e : Err) (s : State) : (raiseInExecution e s).din = s.din := rfl
@[simp] theorem raiseInExecution_dlen (e : Err) (s : State) : (raiseInExecution e s).dlen = s.dlen := rfl
@[simp] theorem raiseInExecution_dout (e : Err) (s : State) : (raiseInExecution e s).dout = s.dout := rfl
@[simp] theorem raiseInExecution_olen (e : Err) (s : State) : (raiseInExecution e s).olen = s.olen := rfl
@[simp] theorem raiseInExecution_cmd (e : Err) (s : State) : (raiseInExecution e s).cmd = s.cmd := rfl
@[simp] theorem raiseInExecution_busy (e : Err) (s : State) : (raiseInExecution e s).busy = s.busy := rfl
@[simp] theorem raiseInExecution_done (e : Err) (s : State) : (raiseInExecution e s).done = s.done := rfl
@[simp] theorem raiseInExecution_err (e : Err) (s : State) : (raiseInExecution e s).err = s.err := rfl
@[simp] theorem raiseInExecution_errcode (e : Err) (s : State) : (raiseInExecution e s).errcode = s.errcode := rfl
@[simp] theorem raiseInExecution_stage (e : Err) (s : State) : (raiseInExecution e s).stage = .finish := rfl
@[simp] theorem raiseInExecution_sr (e : Err) (s : State) : (raiseInExecution e s).sr = s.sr := rfl
@[simp] theorem raiseInExecution_ctr (e : Err) (s : State) : (raiseInExecution e s).ctr = s.ctr := rfl
@[simp] theorem raiseInExecution_ksnr (e : Err) (s : State) : (raiseInExecution e s).ksnr = s.ksnr := rfl
@[simp] theorem raiseInExecution_curkey (e : Err) (s : State) : (raiseInExecution e s).curkey = s.curkey := rfl
@[simp] theorem raiseInExecution_res (e : Err) (s : State) : (raiseInExecution e s).res = s.res := rfl
@[simp] theorem raiseInExecution_rlen (e : Err) (s : State) : (raiseInExecution e s).rlen = s.rlen := rfl
@[simp] theorem raiseInExecution_perr (e : Err) (s : State) : (raiseInExecution e s).perr = errWord e := rfl
@[simp] theorem raiseInExecution_params (e : Err) (s : State) : (raiseInExecution e s).params = s.params := rfl
@[simp] theorem raiseInExecution_agenda (e : Err) (s : State) : (raiseInExecution e s).agenda = s.agenda := rfl
@[simp] theorem raiseInExecution_returned (e : Err) (s : State) : (raiseInExecution e s).returned = s.returned := rfl

/-! ### `deliver` -/

@[simp] theorem deliver_key (r : List Byte) (s : State) : (deliver r s).key = s.key := rfl
@[simp] theorem deliver_klen (r : List Byte) (s : State) : (deliver r s).klen = s.klen := rfl
@[simp] theorem deliver_ksn (r : List Byte) (s : State) : (deliver r s).ksn = s.ksn := rfl
@[simp] theorem deliver_iv (r : List Byte) (s : State) : (deliver r s).iv = s.iv := rfl
@[simp] theorem deliver_din (r : List Byte) (s : State) : (deliver r s).din = s.din := rfl
@[simp] theorem deliver_dlen (r : List Byte) (s : State) : (deliver r s).dlen = s.dlen := rfl
@[simp] theorem deliver_dout (r : List Byte) (s : State) : (deliver r s).dout = overlay s.dout r := rfl
@[simp] theorem deliver_olen (r : List Byte) (s : State) : (deliver r s).olen = BitVec.ofNat 11 r.length := rfl
@[simp] theorem deliver_cmd (r : List Byte) (s : State) : (deliver r s).cmd = s.cmd := rfl
@[simp] theorem deliver_busy (r : List Byte) (s : State) : (deliver r s).busy = s.busy := rfl
@[simp] theorem deliver_done (r : List Byte) (s : State) : (deliver r s).done = true := rfl
@[simp] theorem deliver_err (r : List Byte) (s : State) : (deliver r s).err = s.err := rfl
@[simp] theorem deliver_errcode (r : List Byte) (s : State) : (deliver r s).errcode = s.errcode := rfl
@[simp] theorem deliver_stage (r : List Byte) (s : State) : (deliver r s).stage = s.stage := rfl
@[simp] theorem deliver_sr (r : List Byte) (s : State) : (deliver r s).sr = s.sr := rfl
@[simp] theorem deliver_ctr (r : List Byte) (s : State) : (deliver r s).ctr = s.ctr := rfl
@[simp] theorem deliver_ksnr (r : List Byte) (s : State) : (deliver r s).ksnr = s.ksnr := rfl
@[simp] theorem deliver_curkey (r : List Byte) (s : State) : (deliver r s).curkey = s.curkey := rfl
@[simp] theorem deliver_res (r : List Byte) (s : State) : (deliver r s).res = s.res := rfl
@[simp] theorem deliver_rlen (r : List Byte) (s : State) : (deliver r s).rlen = s.rlen := rfl
@[simp] theorem deliver_perr (r : List Byte) (s : State) : (deliver r s).perr = s.perr := rfl
@[simp] theorem deliver_params (r : List Byte) (s : State) : (deliver r s).params = s.params := rfl
@[simp] theorem deliver_agenda (r : List Byte) (s : State) : (deliver r s).agenda = s.agenda := rfl
@[simp] theorem deliver_returned (r : List Byte) (s : State) : (deliver r s).returned = s.returned := rfl

/-! ### `acceptCommand` -/

@[simp] theorem acceptCommand_key (i : Instr) (s : State) : (acceptCommand i s).key = s.key := rfl
@[simp] theorem acceptCommand_klen (i : Instr) (s : State) : (acceptCommand i s).klen = s.klen := rfl
@[simp] theorem acceptCommand_ksn (i : Instr) (s : State) : (acceptCommand i s).ksn = s.ksn := rfl
@[simp] theorem acceptCommand_iv (i : Instr) (s : State) : (acceptCommand i s).iv = s.iv := rfl
@[simp] theorem acceptCommand_din (i : Instr) (s : State) : (acceptCommand i s).din = s.din := rfl
@[simp] theorem acceptCommand_dlen (i : Instr) (s : State) : (acceptCommand i s).dlen = s.dlen := rfl
@[simp] theorem acceptCommand_dout (i : Instr) (s : State) : (acceptCommand i s).dout = s.dout := rfl
@[simp] theorem acceptCommand_olen (i : Instr) (s : State) : (acceptCommand i s).olen = s.olen := rfl
@[simp] theorem acceptCommand_cmd (i : Instr) (s : State) : (acceptCommand i s).cmd = s.cmd := rfl
@[simp] theorem acceptCommand_busy (i : Instr) (s : State) : (acceptCommand i s).busy = true := rfl
@[simp] theorem acceptCommand_done (i : Instr) (s : State) : (acceptCommand i s).done = s.done := rfl
@[simp] theorem acceptCommand_err (i : Instr) (s : State) : (acceptCommand i s).err = s.err := rfl
@[simp] theorem acceptCommand_errcode (i : Instr) (s : State) : (acceptCommand i s).errcode = s.errcode := rfl
@[simp] theorem acceptCommand_stage (i : Instr) (s : State) : (acceptCommand i s).stage = firstStage i := rfl
@[simp] theorem acceptCommand_sr (i : Instr) (s : State) : (acceptCommand i s).sr = s.sr := rfl
@[simp] theorem acceptCommand_ctr (i : Instr) (s : State) : (acceptCommand i s).ctr = s.ctr := rfl
@[simp] theorem acceptCommand_ksnr (i : Instr) (s : State) : (acceptCommand i s).ksnr = s.ksnr := rfl
@[simp] theorem acceptCommand_curkey (i : Instr) (s : State) : (acceptCommand i s).curkey = if loadsCurkey i then s.key.take 16 else s.curkey := rfl
@[simp] theorem acceptCommand_res (i : Instr) (s : State) : (acceptCommand i s).res = s.res := rfl
@[simp] theorem acceptCommand_rlen (i : Instr) (s : State) : (acceptCommand i s).rlen = s.rlen := rfl
@[simp] theorem acceptCommand_perr (i : Instr) (s : State) : (acceptCommand i s).perr = s.perr := rfl
@[simp] theorem acceptCommand_params (i : Instr) (s : State) : (acceptCommand i s).params = s.params := rfl
@[simp] theorem acceptCommand_agenda (i : Instr) (s : State) : (acceptCommand i s).agenda = s.agenda := rfl
@[simp] theorem acceptCommand_returned (i : Instr) (s : State) : (acceptCommand i s).returned = s.returned := rfl

/-! ### `clearOperands` -/

@[simp] theorem clearOperands_key (s : State) : (clearOperands s).key = zeros 24 := rfl
@[simp] theorem clearOperands_klen (s : State) : (clearOperands s).klen = 0#5 := rfl
@[simp] theorem clearOperands_ksn (s : State) : (clearOperands s).ksn = zeros 10 := rfl
@[simp] theorem clearOperands_iv (s : State) : (clearOperands s).iv = zeros 8 := rfl
@[simp] theorem clearOperands_din (s : State) : (clearOperands s).din = zeros s.params.dataMax := rfl
@[simp] theorem clearOperands_dlen (s : State) : (clearOperands s).dlen = 0#11 := rfl
@[simp] theorem clearOperands_dout (s : State) : (clearOperands s).dout = s.dout := rfl
@[simp] theorem clearOperands_olen (s : State) : (clearOperands s).olen = s.olen := rfl
@[simp] theorem clearOperands_cmd (s : State) : (clearOperands s).cmd = s.cmd := rfl
@[simp] theorem clearOperands_busy (s : State) : (clearOperands s).busy = s.busy := rfl
@[simp] theorem clearOperands_done (s : State) : (clearOperands s).done = s.done := rfl
@[simp] theorem clearOperands_err (s : State) : (clearOperands s).err = s.err := rfl
@[simp] theorem clearOperands_errcode (s : State) : (clearOperands s).errcode = s.errcode := rfl
@[simp] theorem clearOperands_stage (s : State) : (clearOperands s).stage = s.stage := rfl
@[simp] theorem clearOperands_sr (s : State) : (clearOperands s).sr = s.sr := rfl
@[simp] theorem clearOperands_ctr (s : State) : (clearOperands s).ctr = s.ctr := rfl
@[simp] theorem clearOperands_ksnr (s : State) : (clearOperands s).ksnr = s.ksnr := rfl
@[simp] theorem clearOperands_curkey (s : State) : (clearOperands s).curkey = s.curkey := rfl
@[simp] theorem clearOperands_res (s : State) : (clearOperands s).res = s.res := rfl
@[simp] theorem clearOperands_rlen (s : State) : (clearOperands s).rlen = s.rlen := rfl
@[simp] theorem clearOperands_perr (s : State) : (clearOperands s).perr = s.perr := rfl
@[simp] theorem clearOperands_params (s : State) : (clearOperands s).params = s.params := rfl
@[simp] theorem clearOperands_agenda (s : State) : (clearOperands s).agenda = s.agenda := rfl
@[simp] theorem clearOperands_returned (s : State) : (clearOperands s).returned = s.returned := rfl

/-! ### `holdResult` -/

@[simp] theorem holdResult_key (r : List Byte) (s : State) : (holdResult r s).key = s.key := rfl
@[simp] theorem holdResult_klen (r : List Byte) (s : State) : (holdResult r s).klen = s.klen := rfl
@[simp] theorem holdResult_ksn (r : List Byte) (s : State) : (holdResult r s).ksn = s.ksn := rfl
@[simp] theorem holdResult_iv (r : List Byte) (s : State) : (holdResult r s).iv = s.iv := rfl
@[simp] theorem holdResult_din (r : List Byte) (s : State) : (holdResult r s).din = s.din := rfl
@[simp] theorem holdResult_dlen (r : List Byte) (s : State) : (holdResult r s).dlen = s.dlen := rfl
@[simp] theorem holdResult_dout (r : List Byte) (s : State) : (holdResult r s).dout = s.dout := rfl
@[simp] theorem holdResult_olen (r : List Byte) (s : State) : (holdResult r s).olen = s.olen := rfl
@[simp] theorem holdResult_cmd (r : List Byte) (s : State) : (holdResult r s).cmd = s.cmd := rfl
@[simp] theorem holdResult_busy (r : List Byte) (s : State) : (holdResult r s).busy = s.busy := rfl
@[simp] theorem holdResult_done (r : List Byte) (s : State) : (holdResult r s).done = s.done := rfl
@[simp] theorem holdResult_err (r : List Byte) (s : State) : (holdResult r s).err = s.err := rfl
@[simp] theorem holdResult_errcode (r : List Byte) (s : State) : (holdResult r s).errcode = s.errcode := rfl
@[simp] theorem holdResult_stage (r : List Byte) (s : State) : (holdResult r s).stage = .finish := rfl
@[simp] theorem holdResult_sr (r : List Byte) (s : State) : (holdResult r s).sr = s.sr := rfl
@[simp] theorem holdResult_ctr (r : List Byte) (s : State) : (holdResult r s).ctr = s.ctr := rfl
@[simp] theorem holdResult_ksnr (r : List Byte) (s : State) : (holdResult r s).ksnr = s.ksnr := rfl
@[simp] theorem holdResult_curkey (r : List Byte) (s : State) : (holdResult r s).curkey = s.curkey := rfl
@[simp] theorem holdResult_res (r : List Byte) (s : State) : (holdResult r s).res = r := rfl
@[simp] theorem holdResult_rlen (r : List Byte) (s : State) : (holdResult r s).rlen = BitVec.ofNat 11 r.length := rfl
@[simp] theorem holdResult_perr (r : List Byte) (s : State) : (holdResult r s).perr = s.perr := rfl
@[simp] theorem holdResult_params (r : List Byte) (s : State) : (holdResult r s).params = s.params := rfl
@[simp] theorem holdResult_agenda (r : List Byte) (s : State) : (holdResult r s).agenda = s.agenda := rfl
@[simp] theorem holdResult_returned (r : List Byte) (s : State) : (holdResult r s).returned = s.returned := rfl

/-! ### `resetOf` -/

@[simp] theorem resetOf_key (p : Params) : (State.resetOf p).key = zeros 24 := rfl
@[simp] theorem resetOf_klen (p : Params) : (State.resetOf p).klen = 0#5 := rfl
@[simp] theorem resetOf_ksn (p : Params) : (State.resetOf p).ksn = zeros 10 := rfl
@[simp] theorem resetOf_iv (p : Params) : (State.resetOf p).iv = zeros 8 := rfl
@[simp] theorem resetOf_din (p : Params) : (State.resetOf p).din = zeros p.dataMax := rfl
@[simp] theorem resetOf_dlen (p : Params) : (State.resetOf p).dlen = 0#11 := rfl
@[simp] theorem resetOf_dout (p : Params) : (State.resetOf p).dout = zeros p.doutMax := rfl
@[simp] theorem resetOf_olen (p : Params) : (State.resetOf p).olen = 0#11 := rfl
@[simp] theorem resetOf_cmd (p : Params) : (State.resetOf p).cmd = 0#32 := rfl
@[simp] theorem resetOf_busy (p : Params) : (State.resetOf p).busy = false := rfl
@[simp] theorem resetOf_done (p : Params) : (State.resetOf p).done = false := rfl
@[simp] theorem resetOf_err (p : Params) : (State.resetOf p).err = false := rfl
@[simp] theorem resetOf_errcode (p : Params) : (State.resetOf p).errcode = 0#16 := rfl
@[simp] theorem resetOf_stage (p : Params) : (State.resetOf p).stage = .idle := rfl
@[simp] theorem resetOf_sr (p : Params) : (State.resetOf p).sr = 0#21 := rfl
@[simp] theorem resetOf_ctr (p : Params) : (State.resetOf p).ctr = 0#21 := rfl
@[simp] theorem resetOf_ksnr (p : Params) : (State.resetOf p).ksnr = 0#64 := rfl
@[simp] theorem resetOf_curkey (p : Params) : (State.resetOf p).curkey = zeros 16 := rfl
@[simp] theorem resetOf_res (p : Params) : (State.resetOf p).res = [] := rfl
@[simp] theorem resetOf_rlen (p : Params) : (State.resetOf p).rlen = 0#11 := rfl
@[simp] theorem resetOf_perr (p : Params) : (State.resetOf p).perr = 0#16 := rfl
@[simp] theorem resetOf_params (p : Params) : (State.resetOf p).params = p := rfl
@[simp] theorem resetOf_agenda (p : Params) : (State.resetOf p).agenda = [] := rfl
@[simp] theorem resetOf_returned (p : Params) : (State.resetOf p).returned = [] := rfl

/-! ### `applyReset` -/

@[simp] theorem applyReset_key (s : State) : (applyReset s).key = zeros 24 := rfl
@[simp] theorem applyReset_klen (s : State) : (applyReset s).klen = 0#5 := rfl
@[simp] theorem applyReset_ksn (s : State) : (applyReset s).ksn = zeros 10 := rfl
@[simp] theorem applyReset_iv (s : State) : (applyReset s).iv = zeros 8 := rfl
@[simp] theorem applyReset_din (s : State) : (applyReset s).din = zeros s.params.dataMax := rfl
@[simp] theorem applyReset_dlen (s : State) : (applyReset s).dlen = 0#11 := rfl
@[simp] theorem applyReset_dout (s : State) : (applyReset s).dout = zeros s.params.doutMax := rfl
@[simp] theorem applyReset_olen (s : State) : (applyReset s).olen = 0#11 := rfl
@[simp] theorem applyReset_cmd (s : State) : (applyReset s).cmd = 0#32 := rfl
@[simp] theorem applyReset_busy (s : State) : (applyReset s).busy = false := rfl
@[simp] theorem applyReset_done (s : State) : (applyReset s).done = false := rfl
@[simp] theorem applyReset_err (s : State) : (applyReset s).err = false := rfl
@[simp] theorem applyReset_errcode (s : State) : (applyReset s).errcode = 0#16 := rfl
@[simp] theorem applyReset_stage (s : State) : (applyReset s).stage = .idle := rfl
@[simp] theorem applyReset_sr (s : State) : (applyReset s).sr = 0#21 := rfl
@[simp] theorem applyReset_ctr (s : State) : (applyReset s).ctr = 0#21 := rfl
@[simp] theorem applyReset_ksnr (s : State) : (applyReset s).ksnr = 0#64 := rfl
@[simp] theorem applyReset_curkey (s : State) : (applyReset s).curkey = zeros 16 := rfl
@[simp] theorem applyReset_res (s : State) : (applyReset s).res = [] := rfl
@[simp] theorem applyReset_rlen (s : State) : (applyReset s).rlen = 0#11 := rfl
@[simp] theorem applyReset_perr (s : State) : (applyReset s).perr = 0#16 := rfl
@[simp] theorem applyReset_params (s : State) : (applyReset s).params = s.params := rfl
@[simp] theorem applyReset_agenda (s : State) : (applyReset s).agenda = s.agenda := rfl
@[simp] theorem applyReset_returned (s : State) : (applyReset s).returned = s.returned := rfl

/-! ### `publish` -/

@[simp] theorem publish_key (s : State) : (publish s).key = s.key := by
  unfold publish; split <;> simp_all
@[simp] theorem publish_klen (s : State) : (publish s).klen = s.klen := by
  unfold publish; split <;> simp_all
@[simp] theorem publish_ksn (s : State) : (publish s).ksn = s.ksn := by
  unfold publish; split <;> simp_all
@[simp] theorem publish_iv (s : State) : (publish s).iv = s.iv := by
  unfold publish; split <;> simp_all
@[simp] theorem publish_din (s : State) : (publish s).din = s.din := by
  unfold publish; split <;> simp_all
@[simp] theorem publish_dlen (s : State) : (publish s).dlen = s.dlen := by
  unfold publish; split <;> simp_all
@[simp] theorem publish_dout (s : State) : (publish s).dout = if s.perr ≠ 0#16 then s.dout else overlay s.dout (s.res.take s.rlen.toNat) := by
  unfold publish; split <;> simp_all
@[simp] theorem publish_olen (s : State) : (publish s).olen = if s.perr ≠ 0#16 then s.olen else s.rlen := by
  unfold publish; split <;> simp_all
@[simp] theorem publish_cmd (s : State) : (publish s).cmd = s.cmd := by
  unfold publish; split <;> simp_all
@[simp] theorem publish_busy (s : State) : (publish s).busy = s.busy := by
  unfold publish; split <;> simp_all
@[simp] theorem publish_done (s : State) : (publish s).done = s.done := by
  unfold publish; split <;> simp_all
@[simp] theorem publish_err (s : State) : (publish s).err = if s.perr ≠ 0#16 then true else s.err := by
  unfold publish; split <;> simp_all
@[simp] theorem publish_errcode (s : State) : (publish s).errcode = if s.perr ≠ 0#16 then s.perr else s.errcode := by
  unfold publish; split <;> simp_all
@[simp] theorem publish_stage (s : State) : (publish s).stage = s.stage := by
  unfold publish; split <;> simp_all
@[simp] theorem publish_sr (s : State) : (publish s).sr = s.sr := by
  unfold publish; split <;> simp_all
@[simp] theorem publish_ctr (s : State) : (publish s).ctr = s.ctr := by
  unfold publish; split <;> simp_all
@[simp] theorem publish_ksnr (s : State) : (publish s).ksnr = s.ksnr := by
  unfold publish; split <;> simp_all
@[simp] theorem publish_curkey (s : State) : (publish s).curkey = s.curkey := by
  unfold publish; split <;> simp_all
@[simp] theorem publish_res (s : State) : (publish s).res = s.res := by
  unfold publish; split <;> simp_all
@[simp] theorem publish_rlen (s : State) : (publish s).rlen = s.rlen := by
  unfold publish; split <;> simp_all
@[simp] theorem publish_perr (s : State) : (publish s).perr = s.perr := by
  unfold publish; split <;> simp_all
@[simp] theorem publish_params (s : State) : (publish s).params = s.params := by
  unfold publish; split <;> simp_all
@[simp] theorem publish_agenda (s : State) : (publish s).agenda = s.agenda := by
  unfold publish; split <;> simp_all
@[simp] theorem publish_returned (s : State) : (publish s).returned = s.returned := by
  unfold publish; split <;> simp_all

/-! ### `stepFinish` -/

@[simp] theorem stepFinish_key (s : State) : (stepFinish s).key = s.key := publish_key s
@[simp] theorem stepFinish_klen (s : State) : (stepFinish s).klen = s.klen := publish_klen s
@[simp] theorem stepFinish_ksn (s : State) : (stepFinish s).ksn = s.ksn := publish_ksn s
@[simp] theorem stepFinish_iv (s : State) : (stepFinish s).iv = s.iv := publish_iv s
@[simp] theorem stepFinish_din (s : State) : (stepFinish s).din = s.din := publish_din s
@[simp] theorem stepFinish_dlen (s : State) : (stepFinish s).dlen = s.dlen := publish_dlen s
@[simp] theorem stepFinish_dout (s : State) : (stepFinish s).dout = (publish s).dout := rfl
@[simp] theorem stepFinish_olen (s : State) : (stepFinish s).olen = (publish s).olen := rfl
@[simp] theorem stepFinish_cmd (s : State) : (stepFinish s).cmd = s.cmd := publish_cmd s
@[simp] theorem stepFinish_busy (s : State) : (stepFinish s).busy = false := rfl
@[simp] theorem stepFinish_done (s : State) : (stepFinish s).done = true := rfl
@[simp] theorem stepFinish_err (s : State) : (stepFinish s).err = (publish s).err := rfl
@[simp] theorem stepFinish_errcode (s : State) : (stepFinish s).errcode = (publish s).errcode := rfl
@[simp] theorem stepFinish_stage (s : State) : (stepFinish s).stage = .idle := rfl
@[simp] theorem stepFinish_sr (s : State) : (stepFinish s).sr = 0#21 := rfl
@[simp] theorem stepFinish_ctr (s : State) : (stepFinish s).ctr = 0#21 := rfl
@[simp] theorem stepFinish_ksnr (s : State) : (stepFinish s).ksnr = 0#64 := rfl
@[simp] theorem stepFinish_curkey (s : State) : (stepFinish s).curkey = zeros 16 := rfl
@[simp] theorem stepFinish_res (s : State) : (stepFinish s).res = [] := rfl
@[simp] theorem stepFinish_rlen (s : State) : (stepFinish s).rlen = 0#11 := rfl
@[simp] theorem stepFinish_perr (s : State) : (stepFinish s).perr = 0#16 := rfl
@[simp] theorem stepFinish_params (s : State) : (stepFinish s).params = s.params := publish_params s
@[simp] theorem stepFinish_agenda (s : State) : (stepFinish s).agenda = s.agenda := publish_agenda s
@[simp] theorem stepFinish_returned (s : State) : (stepFinish s).returned = s.returned := publish_returned s

/-! ### `counterBitStep` -/

@[simp] theorem counterBitStep_key (s : State) : (counterBitStep s).key = s.key := by
  unfold counterBitStep; split <;> simp_all
@[simp] theorem counterBitStep_klen (s : State) : (counterBitStep s).klen = s.klen := by
  unfold counterBitStep; split <;> simp_all
@[simp] theorem counterBitStep_ksn (s : State) : (counterBitStep s).ksn = s.ksn := by
  unfold counterBitStep; split <;> simp_all
@[simp] theorem counterBitStep_iv (s : State) : (counterBitStep s).iv = s.iv := by
  unfold counterBitStep; split <;> simp_all
@[simp] theorem counterBitStep_din (s : State) : (counterBitStep s).din = s.din := by
  unfold counterBitStep; split <;> simp_all
@[simp] theorem counterBitStep_dlen (s : State) : (counterBitStep s).dlen = s.dlen := by
  unfold counterBitStep; split <;> simp_all
@[simp] theorem counterBitStep_dout (s : State) : (counterBitStep s).dout = s.dout := by
  unfold counterBitStep; split <;> simp_all
@[simp] theorem counterBitStep_olen (s : State) : (counterBitStep s).olen = s.olen := by
  unfold counterBitStep; split <;> simp_all
@[simp] theorem counterBitStep_cmd (s : State) : (counterBitStep s).cmd = s.cmd := by
  unfold counterBitStep; split <;> simp_all
@[simp] theorem counterBitStep_busy (s : State) : (counterBitStep s).busy = s.busy := by
  unfold counterBitStep; split <;> simp_all
@[simp] theorem counterBitStep_done (s : State) : (counterBitStep s).done = s.done := by
  unfold counterBitStep; split <;> simp_all
@[simp] theorem counterBitStep_err (s : State) : (counterBitStep s).err = s.err := by
  unfold counterBitStep; split <;> simp_all
@[simp] theorem counterBitStep_errcode (s : State) : (counterBitStep s).errcode = s.errcode := by
  unfold counterBitStep; split <;> simp_all
@[simp] theorem counterBitStep_stage (s : State) : (counterBitStep s).stage = s.stage := by
  unfold counterBitStep; split <;> simp_all
@[simp] theorem counterBitStep_sr (s : State) : (counterBitStep s).sr = s.sr := by
  unfold counterBitStep; split <;> simp_all
@[simp] theorem counterBitStep_ctr (s : State) : (counterBitStep s).ctr = s.ctr := by
  unfold counterBitStep; split <;> simp_all
@[simp] theorem counterBitStep_ksnr (s : State) : (counterBitStep s).ksnr = if s.sr &&& s.ctr ≠ 0#21 then s.ksnr ||| s.sr.setWidth 64 else s.ksnr := by
  unfold counterBitStep; split <;> simp_all
@[simp] theorem counterBitStep_curkey (s : State) : (counterBitStep s).curkey = if s.sr &&& s.ctr ≠ 0#21 then generateKey s.curkey (bytesN 8 (s.ksnr ||| s.sr.setWidth 64).toNat) else s.curkey := by
  unfold counterBitStep; split <;> simp_all
@[simp] theorem counterBitStep_res (s : State) : (counterBitStep s).res = s.res := by
  unfold counterBitStep; split <;> simp_all
@[simp] theorem counterBitStep_rlen (s : State) : (counterBitStep s).rlen = s.rlen := by
  unfold counterBitStep; split <;> simp_all
@[simp] theorem counterBitStep_perr (s : State) : (counterBitStep s).perr = s.perr := by
  unfold counterBitStep; split <;> simp_all
@[simp] theorem counterBitStep_params (s : State) : (counterBitStep s).params = s.params := by
  unfold counterBitStep; split <;> simp_all
@[simp] theorem counterBitStep_agenda (s : State) : (counterBitStep s).agenda = s.agenda := by
  unfold counterBitStep; split <;> simp_all
@[simp] theorem counterBitStep_returned (s : State) : (counterBitStep s).returned = s.returned := by
  unfold counterBitStep; split <;> simp_all

/-! ### `withFetchWord` -/

@[simp] theorem withFetchWord_key (s : State) (nbits w : Nat) : (s.withFetchWord nbits w).key = s.key := rfl
@[simp] theorem withFetchWord_klen (s : State) (nbits w : Nat) : (s.withFetchWord nbits w).klen = s.klen := rfl
@[simp] theorem withFetchWord_ksn (s : State) (nbits w : Nat) : (s.withFetchWord nbits w).ksn = s.ksn := rfl
@[simp] theorem withFetchWord_iv (s : State) (nbits w : Nat) : (s.withFetchWord nbits w).iv = s.iv := rfl
@[simp] theorem withFetchWord_din (s : State) (nbits w : Nat) : (s.withFetchWord nbits w).din = s.din := rfl
@[simp] theorem withFetchWord_dlen (s : State) (nbits w : Nat) : (s.withFetchWord nbits w).dlen = s.dlen := rfl
@[simp] theorem withFetchWord_dout (s : State) (nbits w : Nat) : (s.withFetchWord nbits w).dout = s.dout := rfl
@[simp] theorem withFetchWord_olen (s : State) (nbits w : Nat) : (s.withFetchWord nbits w).olen = s.olen := rfl
@[simp] theorem withFetchWord_cmd (s : State) (nbits w : Nat) : (s.withFetchWord nbits w).cmd = s.cmd := rfl
@[simp] theorem withFetchWord_busy (s : State) (nbits w : Nat) : (s.withFetchWord nbits w).busy = s.busy := rfl
@[simp] theorem withFetchWord_done (s : State) (nbits w : Nat) : (s.withFetchWord nbits w).done = s.done := rfl
@[simp] theorem withFetchWord_err (s : State) (nbits w : Nat) : (s.withFetchWord nbits w).err = s.err := rfl
@[simp] theorem withFetchWord_errcode (s : State) (nbits w : Nat) : (s.withFetchWord nbits w).errcode = s.errcode := rfl
@[simp] theorem withFetchWord_stage (s : State) (nbits w : Nat) : (s.withFetchWord nbits w).stage = s.stage := rfl
@[simp] theorem withFetchWord_sr (s : State) (nbits w : Nat) : (s.withFetchWord nbits w).sr = s.sr := rfl
@[simp] theorem withFetchWord_ctr (s : State) (nbits w : Nat) : (s.withFetchWord nbits w).ctr = s.ctr := rfl
@[simp] theorem withFetchWord_ksnr (s : State) (nbits w : Nat) : (s.withFetchWord nbits w).ksnr = s.ksnr := rfl
@[simp] theorem withFetchWord_curkey (s : State) (nbits w : Nat) : (s.withFetchWord nbits w).curkey = s.curkey := rfl
@[simp] theorem withFetchWord_res (s : State) (nbits w : Nat) : (s.withFetchWord nbits w).res = s.res := rfl
@[simp] theorem withFetchWord_rlen (s : State) (nbits w : Nat) : (s.withFetchWord nbits w).rlen = s.rlen := rfl
@[simp] theorem withFetchWord_perr (s : State) (nbits w : Nat) : (s.withFetchWord nbits w).perr = s.perr := rfl
@[simp] theorem withFetchWord_params (s : State) (nbits w : Nat) : (s.withFetchWord nbits w).params = s.params := rfl
@[simp] theorem withFetchWord_agenda (s : State) (nbits w : Nat) : (s.withFetchWord nbits w).agenda = .command (BitVec.ofNat 32 (w % 2 ^ nbits)) :: s.agenda := rfl
@[simp] theorem withFetchWord_returned (s : State) (nbits w : Nat) : (s.withFetchWord nbits w).returned = s.returned := rfl

end Sys2Proof.Machine
end

