-- ==== Sys2Proof/Laws/Ops.lean ====
section
/-! SUPPORT. What each shared operation can do, said once: the starts (R94), the ends of a command, the register map,
the engine's step and the machine's step. Later proofs cite these and unfold none of them. -/

namespace Sys2Proof.Machine

/-! ### Starting and ending a command -/

/-- The start checks read no register that steps 1 and 2 of R94 change. -/
@[simp] theorem startError_beginCommand (i : Instr) (w : Word) (s : State) :
    startError i (beginCommand w s) = startError i s := rfl

@[simp] theorem keyOperand_beginCommand (w : Word) (s : State) : keyOperand (beginCommand w s) = keyOperand s := rfl

@[simp] theorem dataOperand_beginCommand (w : Word) (s : State) : dataOperand (beginCommand w s) = dataOperand s := rfl

/-- Everything the start checks of a command can find (R94 steps 4 to 7), in their order. -/
theorem startError_cases (i : Instr) (s : State) (e : Err) (h : startError i s = some e) :
    (readsKey i = true ∧ 24 < s.klen.toNat ∧ e = badOperand 1#8) ∨
      (readsDin i = true ∧ s.params.dataMax < s.dlen.toNat ∧ e = badOperand 2#8) ∨
      (legalKlen i s.klen.toNat = false ∧ e = cipherFailed 1#8) ∨
      (legalDlen s.params.dataMax i s.dlen.toNat = false ∧ e = cipherFailed 2#8) := by
  unfold startError at h
  split at h
  · simp_all
  · split at h
    · simp_all
    · split at h
      · simp_all
      · split at h
        · simp_all
        · cases h

/-- A legal `KLEN` of a command that reads `KEY` fits the register (R23, R96). -/
theorem legalKlen_le (i : Instr) (n : Nat) (hr : readsKey i = true) (h : legalKlen i n = true) : n ≤ 24 := by
  cases i <;> simp_all [readsKey, legalKlen] <;> omega

/-- A legal `DLEN` of a command that reads `DIN` fits the register (R26, R96). -/
theorem legalDlen_le (i : Instr) (m n : Nat) (hr : readsDin i = true) (h : legalDlen m i n = true) : n ≤ m := by
  cases i <;> simp_all [readsDin, legalDlen, wholeBlocks]

/-- A start whose operand lengths are legal finds no error (R94). The capacity checks of steps 4 and 5 follow from the
legal sets of R96. -/
theorem startError_none (i : Instr) (s : State) (hk : legalKlen i s.klen.toNat = true)
    (hd : legalDlen s.params.dataMax i s.dlen.toNat = true) : startError i s = none := by
  have h1 := fun hr => legalKlen_le i _ hr hk
  have h2 := fun hr => legalDlen_le i _ _ hr hd
  unfold startError
  rw [if_neg (by simpa using h1), if_neg (by simpa using h2)]
  simp [hk, hd]

/-- Conversely, where the start finds no error both lengths are legal. -/
theorem startError_none_legal (i : Instr) (s : State) (h : startError i s = none) :
    legalKlen i s.klen.toNat = true ∧ legalDlen s.params.dataMax i s.dlen.toNat = true := by
  unfold startError at h
  split at h
  · cases h
  · split at h
    · cases h
    · split at h
      · cases h
      · split at h
        · cases h
        · simp_all

/-- Everything a command can do in the functional view (R19, R66, R94): it is ignored, it fails a start check, or it has
its effect on the state that steps 1 and 2 of R94 leave. -/
theorem runCommand_cases (i : Instr) (f : State → State) (s : State) (o : Host.Outcome State Fault Refusal)
    (h : runCommand i f s = o) :
    (s.busy = true ∧ o = .next s) ∨
      (∃ e, s.busy = false ∧ startError i s = some e ∧ o = .next (failAtStart e (beginCommand (encode i) s))) ∨
      (s.busy = false ∧ startError i s = none ∧ o = .next (f (beginCommand (encode i) s))) := by
  unfold runCommand at h
  split at h
  · exact .inl ⟨‹_›, h.symm⟩
  · rw [startError_beginCommand] at h
    split at h
    · exact .inr (.inl ⟨_, by simp_all, ‹_›, h.symm⟩)
    · exact .inr (.inr ⟨by simp_all, ‹_›, h.symm⟩)

/-- A command whose start checks pass has its effect. -/
theorem runCommand_started (i : Instr) (f : State → State) (s : State) (hb : s.busy = false)
    (hs : startError i s = none) : runCommand i f s = .next (f (beginCommand (encode i) s)) := by
  simp [runCommand, hb, hs]

/-- A command that fails a start check ends with that error. -/
theorem runCommand_failed (i : Instr) (f : State → State) (s : State) (e : Err) (hb : s.busy = false)
    (hs : startError i s = some e) : runCommand i f s = .next (failAtStart e (beginCommand (encode i) s)) := by
  simp [runCommand, hb, hs]

/-- A command is ignored while another runs (R66). -/
theorem runCommand_busy (i : Instr) (f : State → State) (s : State) (hb : s.busy = true) :
    runCommand i f s = .next s := by
  simp [runCommand, hb]

/-- Everything a `CMD` write can do in the sequencer view (R94). -/
theorem startCommand_cases (w : Word) (s : State) :
    (∃ r, decode w = .error r ∧ startCommand w s = failAtStart illegalCommand (beginCommand w s)) ∨
      (∃ i e, decode w = .ok i ∧ startError i s = some e ∧ startCommand w s = failAtStart e (beginCommand w s)) ∨
      (∃ i, decode w = .ok i ∧ startError i s = none ∧ startCommand w s = acceptCommand i (beginCommand w s)) := by
  cases hd : decode w with
  | error r => exact .inl ⟨r, rfl, by simp [startCommand, hd]⟩
  | ok i =>
    cases he : startError i s with
    | some e => exact .inr (.inl ⟨i, e, rfl, he, by simp [startCommand, hd, he]⟩)
    | none => exact .inr (.inr ⟨i, rfl, he, by simp [startCommand, hd, he]⟩)

@[simp] theorem conclude_ok (r : List Byte) (s : State) : conclude (.ok r) s = deliver r s := rfl

@[simp] theorem conclude_error (e : Err) (s : State) : conclude (.error e) s = failAtStart e s := rfl

/-- `DOUT[0..len(r)-1] <- r` keeps the array's length when `r` fits. -/
theorem overlay_length (arr r : List Byte) (h : r.length ≤ arr.length) : (overlay arr r).length = arr.length := by
  simp [overlay]; omega

/-- R27: over a cleared array, the result and then zeros. -/
theorem overlay_zeros (n : Nat) (r : List Byte) : overlay (zeros n) r = r ++ zeros (n - r.length) := by
  simp [overlay]

theorem allZero_zeros (n : Nat) : allZero (zeros n) = true := by simp [allZero, zeros]

/-! ### The register map (R62, R66 to R68) -/

/-- When an access is admitted (R68). -/
theorem admit_eq_ok (size addr : Nat) (r : MapReg) :
    admittedReg size addr = .ok r ↔ size = 4 ∧ addr % 4 = 0 ∧ mapAddr addr = some r := by
  unfold admittedReg
  split
  · simp_all
  · split
    · simp_all
    · cases mapAddr addr <;> simp_all

/-- An access is admitted or refused; if refused, for one of the three reasons of R68. -/
theorem admit_cases (size addr : Nat) :
    (∃ r, admittedReg size addr = .ok r) ∨ admittedReg size addr = .error (.notAWordAccess size) ∨
      admittedReg size addr = .error (.misalignedAddress addr) ∨ admittedReg size addr = .error (.unmappedAddress addr) := by
  unfold admittedReg
  split
  · simp
  · split
    · simp
    · cases mapAddr addr <;> simp

/-- Everything a host read can do (R67, R68): a value for the host and nothing else, or a refusal. -/
theorem hostRead_cases (size addr : Nat) (s : State) :
    (∃ r, admittedReg size addr = .ok r ∧
        hostRead size addr s = .next { s with returned := s.returned ++ [(addr, readValue s r)] }) ∨
      (∃ e, admittedReg size addr = .error e ∧ hostRead size addr s = .refused e) := by
  cases h : admittedReg size addr with
  | ok r => exact .inl ⟨r, rfl, by simp [hostRead, h]⟩
  | error e => exact .inr ⟨e, rfl, by simp [hostRead, h]⟩

/-- Everything a host write can do (R67, R68). -/
theorem hostWrite_cases (size addr : Nat) (v : Word) (s : State) :
    (∃ r, admittedReg size addr = .ok r ∧ hostWrite size addr v s = .next (writeValue r v s)) ∨
      (∃ e, admittedReg size addr = .error e ∧ hostWrite size addr v s = .refused e) := by
  cases h : admittedReg size addr with
  | ok r => exact .inl ⟨r, rfl, by simp [hostWrite, h]⟩
  | error e => exact .inr ⟨e, rfl, by simp [hostWrite, h]⟩

/-- Everything the write of a mapped register can do (R66, R67). -/
theorem writeValue_cases (r : MapReg) (v : Word) (s : State) :
    (s.busy = true ∧ writeValue r v s = s) ∨
      (s.busy = false ∧ r = .cmd ∧ writeValue r v s = startCommand v s) ∨
      (s.busy = false ∧ r ≠ .cmd ∧ writeValue r v s = storeReg r v s) := by
  cases hb : s.busy with
  | true => exact .inl ⟨rfl, by simp [writeValue, hb]⟩
  | false =>
    cases r
    case cmd => exact .inr (.inl ⟨rfl, rfl, by simp [writeValue, hb]⟩)
    all_goals exact .inr (.inr ⟨rfl, by simp, by simp [writeValue, hb]⟩)

/-- Everything a stored register write changes (R67): one of the six operand registers, or nothing. -/
theorem storeReg_cases (r : MapReg) (v : Word) (s : State) :
    storeReg r v s = s ∨ storeReg r v s = { s with klen := v.setWidth 5 } ∨
      storeReg r v s = { s with dlen := v.setWidth 11 } ∨
      (∃ off, storeReg r v s = { s with key := writeWord s.key off v }) ∨
      (∃ off, storeReg r v s = { s with ksn := writeWord s.ksn off v }) ∨
      (∃ off, storeReg r v s = { s with iv := writeWord s.iv off v }) ∨
      (∃ off, storeReg r v s = { s with din := writeWord s.din off v }) := by
  cases r
  case klen => exact .inr (.inl rfl)
  case dlen => exact .inr (.inr (.inl rfl))
  case key off => exact .inr (.inr (.inr (.inl ⟨off, rfl⟩)))
  case ksn off => exact .inr (.inr (.inr (.inr (.inl ⟨off, rfl⟩))))
  case iv off => exact .inr (.inr (.inr (.inr (.inr (.inl ⟨off, rfl⟩)))))
  case din off => exact .inr (.inr (.inr (.inr (.inr (.inr ⟨off, rfl⟩)))))
  all_goals exact .inl rfl

/-- Every stored write keeps the sizes of the arrays: the register map's canonical form (R20). -/
theorem storeReg_sizes (r : MapReg) (v : Word) (s : State) (h : s.sizesOk = true) :
    (storeReg r v s).sizesOk = true := by
  rcases storeReg_cases r v s with h' | h' | h' | ⟨off, h'⟩ | ⟨off, h'⟩ | ⟨off, h'⟩ | ⟨off, h'⟩ <;>
    rw [h'] <;> simp_all [State.sizesOk]

/-- The reset state has the sizes of R20 for every allowed `DATA_MAX`. -/
theorem resetOf_sizes (p : Params) (hp : p.wellFormed = true) : (State.resetOf p).sizesOk = true := by
  simp [State.sizesOk, hp]

/-! ### The engine (R230 to R244) -/

/-- Everything an engine step can be (R230): the step of the stage, on the command `CMD` decodes to. -/
theorem engineStep_cases (s t : State) (h : engineStep s = some t) :
    s.busy = true ∧ ∃ op, decode s.cmd = .ok op ∧
      ((s.stage = .exec ∧ stepExec op s = some t) ∨ (s.stage = .ipek ∧ stepIpek op s = some t) ∨
        (s.stage = .wkInit ∧ stepWkInit op s = some t) ∨ (s.stage = .wkIter ∧ stepWkIter op s = some t) ∨
        (s.stage = .session ∧ stepSession op s = some t) ∨ (s.stage = .track ∧ stepTrack op s = some t) ∨
        (s.stage = .finish ∧ stepFinish s = t)) := by
  unfold engineStep at h
  split at h
  · split at h
    · cases h
    · refine ⟨‹_›, _, ‹_›, ?_⟩
      split at h <;> simp_all
  · cases h

/-- Step at `EXEC` (R232, R233): the command's function is held for `FINISH`, or its error noted. -/
theorem stepExec_cases (op : Instr) (s t : State) (h : stepExec op s = some t) :
    ∃ r, execFunction op s = some r ∧ t = holdOrRaise r (if op = .clear then clearOperands s else s) := by
  unfold stepExec at h
  split at h
  · exact ⟨_, ‹_›, by simpa using h.symm⟩
  · cases h

/-- Step at `IPEK` (R234). -/
theorem stepIpek_cases (op : Instr) (s t : State) (h : stepIpek op s = some t) :
    (op = .deriveIpek ∧
        t = holdResult (deriveIPEK (keyOperand s) s.ksn) { s with curkey := deriveIPEK (keyOperand s) s.ksn }) ∨
      ((op = .deriveKey ∨ op = .decryptTrack) ∧
        t = { s with curkey := deriveIPEK (keyOperand s) s.ksn, stage := .wkInit }) := by
  unfold stepIpek at h
  dsimp only at h
  split at h
  · exact .inl ⟨‹_›, by simpa using h.symm⟩
  · split at h
    · exact .inr ⟨‹_›, by simpa using h.symm⟩
    · cases h

/-- Step at `WK_INIT` (R235). -/
theorem stepWkInit_cases (op : Instr) (s t : State) (h : stepWkInit op s = some t) :
    (op = .deriveWk ∨ op = .deriveKey ∨ op = .decryptTrack) ∧
      t = { s with
        ctr := counterOf s.ksn, ksnr := BitVec.ofNat 64 (val (baseKSN s.ksn)), sr := srInit, stage := .wkIter } := by
  unfold stepWkInit at h
  split at h
  · exact ⟨‹_›, by simpa using h.symm⟩
  · cases h

/-- Step at `WK_ITER` (R236 to R238). -/
theorem stepWkIter_cases (op : Instr) (s t : State) (h : stepWkIter op s = some t) :
    (s.sr >>> 1 ≠ 0#21 ∧ t = { counterBitStep s with sr := s.sr >>> 1 }) ∨
      (s.sr >>> 1 = 0#21 ∧ op = .deriveWk ∧
        t = holdResult (counterBitStep s).curkey { counterBitStep s with sr := 0#21 }) ∨
      (s.sr >>> 1 = 0#21 ∧ (op = .deriveKey ∨ op = .decryptTrack) ∧
        t = { counterBitStep s with sr := 0#21, stage := .session }) := by
  unfold stepWkIter shiftStep at h
  simp only [counterBitStep_sr] at h
  split at h
  · exact .inl ⟨‹_›, by simpa using h.symm⟩
  · rename_i h0
    have hz : s.sr >>> 1 = 0#21 := by simpa using h0
    rw [hz] at h
    split at h
    · exact .inr (.inl ⟨hz, ‹_›, by simpa using h.symm⟩)
    · split at h
      · exact .inr (.inr ⟨hz, ‹_›, by simpa using h.symm⟩)
      · cases h

/-- Step at `SESSION` (R239). -/
theorem stepSession_cases (op : Instr) (s t : State) (h : stepSession op s = some t) :
    (op = .decryptTrack ∧ t = { s with curkey := deriveSessionKey s.curkey, stage := .track }) ∨
      ((op = .deriveSk ∨ op = .deriveKey) ∧
        t = holdResult (deriveSessionKey s.curkey) { s with curkey := deriveSessionKey s.curkey }) := by
  unfold stepSession at h
  dsimp only at h
  split at h
  · exact .inl ⟨‹_›, by simpa using h.symm⟩
  · split at h
    · exact .inr ⟨‹_›, by simpa using h.symm⟩
    · cases h

/-- Step at `TRACK` (R240). -/
theorem stepTrack_cases (op : Instr) (s t : State) (h : stepTrack op s = some t) :
    op = .decryptTrack ∧ t = holdOrRaise (decrypt s.params.decUnpad .aes s.curkey (dataOperand s)) s := by
  unfold stepTrack at h
  split at h
  · exact ⟨‹_›, by simpa using h.symm⟩
  · cases h

/-- A held result or a noted error, and nothing else (R233, R240). -/
theorem holdOrRaise_cases (r : Except Err (List Byte)) (s : State) :
    (∃ b, r = .ok b ∧ holdOrRaise r s = holdResult b s) ∨ (∃ e, r = .error e ∧ holdOrRaise r s = raiseInExecution e s) := by
  cases r with
  | ok b => exact .inl ⟨b, rfl, rfl⟩
  | error e => exact .inr ⟨e, rfl, rfl⟩

/-- Everything the engine's turn can do (R230). -/
theorem engineTurn_cases (s : State) :
    (s.busy = false ∧ engineTurn s = .next s) ∨
      (s.busy = true ∧ ∃ t, engineStep s = some t ∧ engineTurn s = .next t) ∨
      (s.busy = true ∧ engineStep s = none ∧ engineTurn s = .fault .noEnabledStep) := by
  cases hb : s.busy with
  | false => exact .inl ⟨rfl, by simp [engineTurn, hb]⟩
  | true =>
    cases he : engineStep s with
    | some t => exact .inr (.inl ⟨rfl, t, rfl, by simp [engineTurn, hb, he]⟩)
    | none => exact .inr (.inr ⟨rfl, rfl, by simp [engineTurn, hb, he]⟩)

/-! ### The machine's step -/

/-- A step with nothing on the agenda is the engine's turn. -/
theorem step_nil (s : State) (h : s.agenda = []) : step s = engineTurn s := by simp [step, h]

/-- A step with an event on the agenda performs it. -/
theorem step_cons (s : State) (e : Event) (rest : List Event) (h : s.agenda = e :: rest) :
    step s = perform e { s with agenda := rest } := by simp [step, h]

/-- Everything a step that answers a next state can be: one turn of the engine or one event (R18, R71). -/
theorem step_next_cases (s t : State) (h : step s = .next t) :
    (s.agenda = [] ∧ engineTurn s = .next t) ∨
      (∃ size addr rest r, s.agenda = .read size addr :: rest ∧ admittedReg size addr = .ok r ∧
        t = { s with agenda := rest, returned := s.returned ++ [(addr, readValue { s with agenda := rest } r)] }) ∨
      (∃ size addr v rest r, s.agenda = .write size addr v :: rest ∧ admittedReg size addr = .ok r ∧
        t = writeValue r v { s with agenda := rest }) ∨
      (∃ w rest, s.agenda = .command w :: rest ∧ runWord w { s with agenda := rest } = .next t) ∨
      (∃ rest, s.agenda = .engine :: rest ∧ engineTurn { s with agenda := rest } = .next t) ∨
      (∃ rest, s.agenda = .reset :: rest ∧ t = applyReset { s with agenda := rest }) := by
  cases ha : s.agenda with
  | nil => rw [step_nil s ha] at h; exact .inl ⟨rfl, h⟩
  | cons e rest =>
    rw [step_cons s e rest ha] at h
    cases e with
    | read size addr =>
      rcases hostRead_cases size addr { s with agenda := rest } with ⟨r, hr, hn⟩ | ⟨e, -, hn⟩
      · rw [perform, hn] at h; cases h; exact .inr (.inl ⟨size, addr, rest, r, rfl, hr, rfl⟩)
      · rw [perform, hn] at h; cases h
    | write size addr v =>
      rcases hostWrite_cases size addr v { s with agenda := rest } with ⟨r, hr, hn⟩ | ⟨e, -, hn⟩
      · rw [perform, hn] at h; cases h; exact .inr (.inr (.inl ⟨size, addr, v, rest, r, rfl, hr, rfl⟩))
      · rw [perform, hn] at h; cases h
    | command w => exact .inr (.inr (.inr (.inl ⟨w, rest, rfl, h⟩)))
    | engine => exact .inr (.inr (.inr (.inr (.inl ⟨rest, rfl, h⟩))))
    | reset => rw [perform] at h; cases h; exact .inr (.inr (.inr (.inr (.inr ⟨rest, rfl, rfl⟩))))

end Sys2Proof.Machine
end

