-- ==== Sys2Proof/Laws/PerInstr.lean ====
section
/-! SUPPORT. Statements about every command as syntax, one lemma for each constructor. -/

namespace Sys2Proof.Laws.CommandWord

/-- The command word of `i` has the three fields of R90 as R92 lists them, bits 31:10 zero, and `i` is well formed. -/
def Statement (i : Instr) : Prop :=
  fieldZero (encode i) = 0#22 ∧ fieldAlg (encode i) = algField i ∧ fieldOp (encode i) = opField i ∧ i.wellFormed = true

theorem nop : Statement .nop := by unfold Statement; decide
theorem clear : Statement .clear := by unfold Statement; decide
theorem encDes : Statement .encDes := by unfold Statement; decide
theorem encTdes : Statement .encTdes := by unfold Statement; decide
theorem encAes : Statement .encAes := by unfold Statement; decide
theorem decDes : Statement .decDes := by unfold Statement; decide
theorem decTdes : Statement .decTdes := by unfold Statement; decide
theorem decAes : Statement .decAes := by unfold Statement; decide
theorem expand3des : Statement .expand3des := by unfold Statement; decide
theorem xor : Statement .xor := by unfold Statement; decide
theorem and : Statement .and := by unfold Statement; decide
theorem getctr : Statement .getctr := by unfold Statement; decide
theorem deriveIpek : Statement .deriveIpek := by unfold Statement; decide
theorem deriveWk : Statement .deriveWk := by unfold Statement; decide
theorem deriveSk : Statement .deriveSk := by unfold Statement; decide
theorem deriveKey : Statement .deriveKey := by unfold Statement; decide
theorem genKey : Statement .genKey := by unfold Statement; decide
theorem encReg : Statement .encReg := by unfold Statement; decide
theorem decryptTrack : Statement .decryptTrack := by unfold Statement; decide

end Sys2Proof.Laws.CommandWord
end

