-- ==== Sys2Proof/Laws/Script.lean ====
section
/-! SUPPORT. What the host's accesses and statements do, said once: later proofs cite these and unfold no run. -/

namespace Sys2Proof.Machine

/-- An access list that is done is a run of as many steps as it has accesses. -/
theorem hostDo_eq_ok (es : List Event) (s t : State) :
    hostDo es s = .ok t ↔ runSteps es.length { s with agenda := es } = .next t := by
  unfold hostDo runScript
  split <;> simp_all

@[simp] theorem hostDo_nil (s : State) : hostDo [] s = .ok { s with agenda := [] } := rfl

/-- One access is what its event does, with nothing left on the agenda. -/
theorem hostDo_single (e : Event) (s t : State) :
    hostDo [e] s = .ok t ↔ perform e { s with agenda := [] } = .next t := by
  rw [hostDo_eq_ok]
  simp only [List.length_singleton, runSteps, step]
  split <;> simp_all

/-- A list of reads of mapped words, wherever it stands on the agenda. -/
theorem runSteps_reads (reg : Nat → MapReg) (addrs : List Nat) (s : State)
    (ha : ∀ a ∈ addrs, admittedReg 4 a = .ok (reg a)) (hs : s.agenda = addrs.map fun a => Event.read 4 a) :
    runSteps addrs.length s = .next
      { s with agenda := [], returned := s.returned ++ addrs.map fun a => (a, readValue s (reg a)) } := by
  induction addrs generalizing s with
  | nil => obtain ⟨⟩ := s; simp_all [runSteps]
  | cons a rest ih =>
    have h1 := ha a (by simp)
    rw [List.map_cons] at hs
    simp only [List.length_cons, runSteps, step, hs, perform, hostRead, h1]
    rw [ih _ (fun b hb => ha b (by simp [hb])) rfl]
    simp only [List.map_cons, List.append_assoc, List.singleton_append]
    rfl

/-- R67: reads of mapped words end, return the values of those words in order, and change no register. -/
theorem hostReads_eq (reg : Nat → MapReg) (addrs : List Nat) (s : State)
    (ha : ∀ a ∈ addrs, admittedReg 4 a = .ok (reg a)) :
    hostReads addrs s = .ok
      (addrs.map fun a => readValue s (reg a),
        { s with agenda := [], returned := s.returned ++ addrs.map fun a => (a, readValue s (reg a)) }) := by
  have h : hostDo (addrs.map fun a => Event.read 4 a) s = .ok
      { s with agenda := [], returned := s.returned ++ addrs.map fun a => (a, readValue s (reg a)) } := by
    rw [hostDo_eq_ok, List.length_map]
    exact runSteps_reads reg addrs { s with agenda := addrs.map fun a => Event.read 4 a } ha rfl
  simp only [hostReads, h]
  simp [Bind.bind, Except.bind, Function.comp_def]

/-- R67: a read of a mapped word ends, returns its value and changes no register. -/
theorem hostReadWord_eq (addr : Nat) (r : MapReg) (s : State) (ha : admittedReg 4 addr = .ok r) :
    hostReadWord addr s = .ok
      (readValue s r, { s with agenda := [], returned := s.returned ++ [(addr, readValue s r)] }) := by
  have h := hostReads_eq (fun _ => r) [addr] s (by simpa using ha)
  simp only [hostReadWord, h]
  rfl

/-- What one poll of `RUN` does (R98). -/
theorem pollDone_cons (n : Nat) (rest : List Nat) (s s1 : State)
    (h : hostDo (List.replicate n Event.engine) s = .ok s1) :
    pollDone (n :: rest) s =
      let s2 := { s1 with agenda := [], returned := s1.returned ++ [(0x004, readValue s1 .status)] }
      if (readValue s1 .status).getLsbD 1 then .ok (s2, rest) else pollDone rest s2 := by
  rw [pollDone, h]
  simp only [Bind.bind, Except.bind, hostReadWord_eq 0x004 .status s1 rfl]

/-- A script is its first statement and then the rest (R98). -/
theorem runStmts_cons (v : View) (st : Stmt) (rest : List Stmt) (s : State) (env : HostEnv) :
    runStmts v (st :: rest) s env =
      match runStmt v st s env with
      | .ok (t, env') => runStmts v rest t env'
      | .error e => .error e := by
  rw [runStmts]
  cases runStmt v st s env <;> rfl

end Sys2Proof.Machine
end

