-- ==== Sys2Proof/Tests/Slice0.lean ====
section
/-! SUPPORT. Tests of the model: the checks of WellFormed, every command word written out from the table of R92, vectors
from `95_test_vectors.md` (its sections are named beside them), and for every statement with hypotheses a state that
meets them. `decide +kernel` lets the kernel evaluate the closed fact. -/

open Sys2Proof Sys2Proof.Machine

namespace Sys2Proof.Tests

set_option Elab.async false

/-- An idle instance with these operands and nothing else set. -/
def idleWith (p : Params) (key data ksn : List Byte) : State :=
  { State.resetOf p with
    key := key ++ zeros (24 - key.length), klen := BitVec.ofNat 5 key.length, ksn := ksn
    din := data ++ zeros (p.dataMax - data.length), dlen := BitVec.ofNat 11 data.length }

/-- A small instance: `DATA_MAX = 16`, `DEC_UNPAD` as given. -/
def small (unpad : Bool) : Params := { dataMax := 16, decUnpad := unpad }

/-- What a command delivered: `DOUT[0..OLEN-1]`, or the error code. -/
def delivered : Host.Outcome State Fault Refusal → Option (Except (BitVec 16) (List Byte))
  | .next t => some (if t.err then .error t.errcode else .ok (t.dout.take t.olen.toNat))
  | .fault _ => none
  | .refused _ => none

/-- The command with these operands delivers `r`. -/
def gives (i : Instr) (key data ksn r : List Byte) : Bool :=
  match delivered (exec i (idleWith (small true) key data ksn)) with
  | some (.ok b) => b == r
  | _ => false

/-- The command with these operands ends with the error code `c`. -/
def fails (i : Instr) (key data ksn : List Byte) (c : BitVec 16) : Bool :=
  match delivered (exec i (idleWith (small true) key data ksn)) with
  | some (.error e) => e == c
  | _ => false

def answersNext (o : Host.Outcome State Fault Refusal) : Bool :=
  match o with
  | .next _ => true
  | .fault _ => false
  | .refused _ => false

def answersRefused (o : Host.Outcome State Fault Refusal) : Bool :=
  match o with
  | .next _ => false
  | .fault _ => false
  | .refused _ => true

/-- The state an outcome answers, and the reset state where there is none. -/
def stateOf (o : Host.Outcome State Fault Refusal) : State :=
  match o with
  | .next t => t
  | .fault _ => State.reset
  | .refused _ => State.reset

/-- The reference BDK, IPEK and KSN of section 3.6, and keys of section 3.4. -/
def bdk : List Byte := bytesN 16 0x0123456789ABCDEFFEDCBA9876543210
def ipek : List Byte := bytesN 16 0x6AC292FAA1315B4D858AB3A3D7D5933A
def ksn0 : List Byte := bytesN 10 0xFFFF9876543210E00000
def ksn1 : List Byte := bytesN 10 0xFFFF9876543210E00001
def desKey : List Byte := bytesN 8 0x0123456789ABCDEF
def tdesKey : List Byte := bytesN 24 0x0123456789ABCDEFFEDCBA98765432100123456789ABCDEF
def aesKey : List Byte := bytesN 16 0x000102030405060708090A0B0C0D0E0F

/-- An idle instance with a 16-byte key, ten bytes of KSN and a full `DIN`. -/
def keyed : State := idleWith (small true) ipek (bytesN 16 0x00112233445566778899AABBCCDDEEFF) ksn1

/-! ### WellFormed: an ill-formed term for each check, refused -/

theorem test_wf_dataMax_too_small : Params.wellFormed { dataMax := 0, decUnpad := true } = false := by decide
theorem test_wf_dataMax_too_large : Params.wellFormed { dataMax := 1024, decUnpad := true } = false := by decide
theorem test_wf_dataMax_no_multiple : Params.wellFormed { dataMax := 24, decUnpad := true } = false := by decide
theorem test_wf_dataMax_bounds :
    Params.wellFormed { dataMax := 16, decUnpad := false } = true ∧
      Params.wellFormed { dataMax := 1008, decUnpad := true } = true ∧ Params.taken.wellFormed = true := by decide
theorem test_wf_access_narrow : Event.wellFormed (.read 1 0x004) = false := by decide
theorem test_wf_access_misaligned : Event.wellFormed (.write 4 0x402 0#32) = false := by decide
theorem test_wf_access_outside : Event.wellFormed (.read 4 0x1000) = false := by decide
theorem test_wf_access_good :
    Event.wellFormed (.read 4 0xC0C) = true ∧ Event.wellFormed (.write 4 0x000 0#32) = true := by decide
/-- R95: no command can be ill formed. -/
theorem test_wf_commands : ∀ i : Instr, i.wellFormed = true := by intro i; cases i <;> decide

/-! ### Decode: every word of R92 bit by bit (`ZERO`, `ALG`, `OP`), and the rejections of R93 by name -/

theorem test_decode_nop : decode 0b0000000000000000000000_00_00000000#32 = .ok .nop := by decide
theorem test_decode_clear : decode 0b0000000000000000000000_00_00000001#32 = .ok .clear := by decide
theorem test_decode_encDes : decode 0b0000000000000000000000_00_00010000#32 = .ok .encDes := by decide
theorem test_decode_encTdes : decode 0b0000000000000000000000_01_00010000#32 = .ok .encTdes := by decide
theorem test_decode_encAes : decode 0b0000000000000000000000_10_00010000#32 = .ok .encAes := by decide
theorem test_decode_decDes : decode 0b0000000000000000000000_00_00010001#32 = .ok .decDes := by decide
theorem test_decode_decTdes : decode 0b0000000000000000000000_01_00010001#32 = .ok .decTdes := by decide
theorem test_decode_decAes : decode 0b0000000000000000000000_10_00010001#32 = .ok .decAes := by decide
theorem test_decode_expand3des : decode 0b0000000000000000000000_00_00100000#32 = .ok .expand3des := by decide
theorem test_decode_xor : decode 0b0000000000000000000000_00_00100001#32 = .ok .xor := by decide
theorem test_decode_and : decode 0b0000000000000000000000_00_00100010#32 = .ok .and := by decide
theorem test_decode_getctr : decode 0b0000000000000000000000_00_00100011#32 = .ok .getctr := by decide
theorem test_decode_deriveIpek : decode 0b0000000000000000000000_00_00110000#32 = .ok .deriveIpek := by decide
theorem test_decode_deriveWk : decode 0b0000000000000000000000_00_00110001#32 = .ok .deriveWk := by decide
theorem test_decode_deriveSk : decode 0b0000000000000000000000_00_00110010#32 = .ok .deriveSk := by decide
theorem test_decode_deriveKey : decode 0b0000000000000000000000_00_00110011#32 = .ok .deriveKey := by decide
theorem test_decode_genKey : decode 0b0000000000000000000000_00_00110100#32 = .ok .genKey := by decide
theorem test_decode_encReg : decode 0b0000000000000000000000_00_00110101#32 = .ok .encReg := by decide
theorem test_decode_decryptTrack : decode 0b0000000000000000000000_00_01000000#32 = .ok .decryptTrack := by decide
theorem test_encode_words :
    encode .encAes = 0x00000210#32 ∧ encode .decTdes = 0x00000111#32 ∧ encode .decryptTrack = 0x00000040#32 := by decide
/-- The words of section 3.9. -/
theorem test_decode_rejects :
    decode 0x00000310#32 = .error .reservedAlg ∧ decode 0x00000311#32 = .error .reservedAlg ∧
      decode 0x80000010#32 = .error .nonZeroHighBits ∧ decode 0x00000400#32 = .error .nonZeroHighBits ∧
      decode 0x00000002#32 = .error .unassignedOp ∧ decode 0x00000102#32 = .error .unassignedOp ∧
      decode 0x00000121#32 = .error .algNotZero ∧ decode 0x00000100#32 = .error .algNotZero := by decide
theorem test_decodeTableWord :
    decodeTableWord 32 0x00000111 = some .decTdes ∧ decodeTableWord 32 0x00000310 = none ∧
      decodeTableWord 16 0x0211 = some .decAes := by decide

/-! ### Reset and the first command after it -/

theorem test_reset_registers :
    State.reset.key = zeros 24 ∧ State.reset.din.length = 256 ∧ State.reset.dout.length = 272 ∧
      State.reset.stage = .idle ∧ statusWord State.reset = 0#32 ∧ State.reset.inv = true := by decide +kernel
theorem test_reset_reads : readValue State.reset .errcode = 0#32 ∧ readValue State.reset (.dout 1036) = 0#32 := by
  decide +kernel
/-- `GETCTR` fetched as the first command after reset: three zero bytes. -/
theorem test_first_command :
    delivered (step (State.reset.withFetchWord 32 0x23)) = some (.ok [0#8, 0#8, 0#8]) := by decide +kernel
/-- Reset while a derivation runs leaves the reset state (R310). -/
theorem test_reset_while_busy :
    applyReset { State.reset with busy := true, stage := .wkIter, sr := 4#21, curkey := ipek } = State.reset := by
  decide +kernel

/-! ### Vectors -/

/-- 3.8: `NOP`. -/
theorem test_nop : gives .nop ipek [] ksn1 [] = true := by decide +kernel
/-- P5: `CLEAR` leaves no operand. -/
theorem test_clear : stateOf (exec .clear keyed) = { State.resetOf (small true) with cmd := 1#32, done := true } := by
  decide +kernel
/-- 3.4, seven bytes and an empty input. -/
theorem test_encDes : gives .encDes desKey (bytesN 7 0x4E6F7720697320) ksn0 (bytesN 8 0x760D86A352B22982) = true := by
  decide +kernel
theorem test_encDes_empty : gives .encDes desKey [] ksn0 (bytesN 8 0x086F9A1D74C94D4E) = true := by decide +kernel
theorem test_encTdes : gives .encTdes tdesKey (bytesN 7 0x4E6F7720697320) ksn0 (bytesN 8 0xD2F2F43850880F99) = true := by
  decide +kernel
/-- 3.4: "no implicit expansion". -/
theorem test_encTdes_short_key : fails .encTdes bdk [] ksn0 0x0102#16 = true := by decide +kernel
theorem test_encAes :
    gives .encAes aesKey (bytesN 8 0x4E6F772069732074) ksn0 (bytesN 16 0xDEB7F589E3904FA2868832CB546E1FEC) = true := by
  decide +kernel
theorem test_encAes_long_key : fails .encAes tdesKey [] ksn0 0x0102#16 = true := by decide +kernel
/-- 3.5: a good padding and a bad one. -/
theorem test_decDes : gives .decDes desKey (bytesN 8 0xE4C22AD02263C908) ksn0 (bytesN 6 0x4E6F77206973) = true := by
  decide +kernel
theorem test_decDes_bad_padding : fails .decDes desKey (bytesN 8 0xFE7E147CACBEBFCC) ksn0 0x0302#16 = true := by
  decide +kernel
theorem test_decTdes : gives .decTdes tdesKey (bytesN 8 0xD2F2F43850880F99) ksn0 (bytesN 7 0x4E6F7720697320) = true := by
  decide +kernel
theorem test_decTdes_length : fails .decTdes tdesKey (bytesN 9 1) ksn0 0x0202#16 = true := by decide +kernel
theorem test_decAes :
    gives .decAes aesKey (bytesN 16 0xDEB7F589E3904FA2868832CB546E1FEC) ksn0 (bytesN 8 0x4E6F772069732074) = true := by
  decide +kernel
theorem test_decAes_length : fails .decAes aesKey (bytesN 8 1) ksn0 0x0202#16 = true := by decide +kernel
/-- 3.2: a length that does not divide 24, and an empty key. -/
theorem test_expand3des :
    gives .expand3des (bytesN 10 0x00112233445566778899) [] ksn0
      (bytesN 24 0x001122334455667788990011223344556677889900112233) = true := by decide +kernel
theorem test_expand3des_empty : fails .expand3des [] [] ksn0 0x0102#16 = true := by decide +kernel
/-- 3.1: the shorter operand is padded on the LEFT, on either side. -/
theorem test_xor : gives .xor (bytesN 3 0xFF00FF) (bytesN 8 0x0123456789ABCDEF) ksn0 (bytesN 8 0x012345678954CD10) = true := by
  decide +kernel
theorem test_xor_empty_data : gives .xor (bytesN 2 0x1234) [] ksn0 (bytesN 2 0x1234) = true := by decide +kernel
theorem test_and : gives .and (bytesN 3 0xFF00FF) (bytesN 8 0x0123456789ABCDEF) ksn0 (bytesN 8 0x0000000000AB00EF) = true := by
  decide +kernel
theorem test_and_empty_data : gives .and (bytesN 2 0x1234) [] ksn0 (bytesN 2 0) = true := by decide +kernel
/-- 3.6: V-K11 and V-K7. -/
theorem test_getctr_all_ones : gives .getctr [] [] (bytesN 10 0xFFFFFFFFFFFFFFFFFFFF) (bytesN 3 0x1FFFFF) = true := by
  decide +kernel
theorem test_getctr : gives .getctr [] [] (bytesN 10 0xFFFF9876543210EFF800) (bytesN 3 0x0FF800) = true := by
  decide +kernel
/-- 3.6: V-K2, and a BDK of 8 bytes. -/
theorem test_deriveIpek : gives .deriveIpek bdk [] ksn1 ipek = true := by decide +kernel
theorem test_deriveIpek_short_key : fails .deriveIpek desKey [] ksn1 0x0102#16 = true := by decide +kernel
/-- 3.6: V-K2, and a 24-byte key. -/
theorem test_deriveWk : gives .deriveWk ipek [] ksn1 (bytesN 16 0x042666B49184CFA368DE9628D0397BC9) = true := by
  decide +kernel
theorem test_deriveWk_long_key : fails .deriveWk tdesKey [] ksn1 0x0102#16 = true := by decide +kernel
theorem test_deriveSk : gives .deriveSk ipek [] ksn0 (bytesN 16 0xEA2B1195B02D1E77A14CED05952DF86B) = true := by
  decide +kernel
/-- 3.6: V-K2, the session key of counter 1. -/
theorem test_deriveKey : gives .deriveKey bdk [] ksn1 (bytesN 16 0x448D3F076D8304036A55A3D7E0055A78) = true := by
  decide +kernel
/-- 3.7, rows 2 and 3: `KSN[0..1]` is not read. -/
theorem test_encReg : gives .encReg ipek [] (bytesN 10 0x9876543210E00001) (bytesN 8 0x68DE9628D0397BC9) = true := by
  decide +kernel
theorem test_genKey :
    gives .genKey (bytesN 16 0xAA02523AA1315B4D454A7363D7D5933A) [] ksn1 (bytesN 16 0x68DE9628D0397BC9042666B49184CFA3) =
      true := by decide +kernel
/-- R268: the worked example, as bytes (";4111111111111111=25121010000000000000?"). -/
theorem test_decryptTrack :
    delivered (exec .decryptTrack (idleWith Params.taken bdk
        (bytesN 48 0xFF9B3885B8382092717D4CBECECA330C4EA010E8E01FE2184B56252B8979C48A31BE94FA88A3F208A1A66789E218D448)
        ksn1)) =
      some (.ok (bytesN 39 0x3B343131313131313131313131313131313D32353132313031303030303030303030303030303F)) := by
  decide +kernel
theorem test_decryptTrack_length : fails .decryptTrack bdk (bytesN 8 1) ksn0 0x0202#16 = true := by decide +kernel
/-- 3.9: the order of the start checks. -/
theorem test_start_order :
    fails .encDes (bytesN 7 0) [] ksn0 0x0102#16 = true ∧ fails .decDes bdk (bytesN 7 0) ksn0 0x0102#16 = true ∧
      fails .decDes desKey (bytesN 7 0) ksn0 0x0202#16 = true := by decide +kernel
/-- 3.3: the published block values. -/
theorem test_desE : desE (zeros 8) (zeros 8) = bytesN 8 0x8CA64DE9C1B123A7 := by decide +kernel
theorem test_aesE :
    aesE aesKey (bytesN 16 0x00112233445566778899AABBCCDDEEFF) = bytesN 16 0x69C4E0D86A7B0430D8CDB78070B4C55A := by
  decide +kernel
/-- The sequencer view of `GETCTR` takes two engine steps (R231). -/
theorem test_sequencer_getctr :
    delivered (runScript [.write 4 0x000 0x23#32, .engine, .engine] keyed) = some (.ok (bytesN 3 1)) := by decide +kernel
/-- R64: `KSN[8..9]` sits in bits 31:16 of its last word. -/
theorem test_ksn_last_word : readValue keyed (.ksn 8) = 0x00010000#32 := by decide +kernel
/-- 3.8: the codec. -/
theorem test_hex :
    bytesFromHex ['1', '2', 'G', '4'] = .error .malformedHex ∧ bytesFromHex ['1', '2', '3'] = .error .malformedHex ∧
      bytesFromHex ['f', 'f', ' ', '0', '0', ' ', 'A', '5'] = .ok (bytesN 3 0xFF00A5) ∧ bytesFromHex [] = .ok [] ∧
      hexFromBytes (bytesN 3 0x00FFA5) = ['0', '0', 'F', 'F', 'A', '5'] := by decide +kernel
theorem test_ascii :
    hexToAscii (bytesN 5 0x3B34313D3F) = .ok [';', '4', '1', '=', '?'] ∧
      hexToAscii (bytesN 3 0x41800A) = .error .malformedHex := by decide +kernel
/-- R267: the KSN element is tested first. -/
theorem test_missing_elements :
    decryptTagged .functional [] none none bdk keyed = .ok (.error .missingKSN, keyed) ∧
      decryptTagged .functional [] none (some []) bdk keyed = .ok (.error .missingTrackData, keyed) := ⟨rfl, rfl⟩

/-- What a script leaves its host with: the names and the claims, or none where it stops. -/
def scriptEnd (v : View) (script : List Stmt) (polls : List Nat) : Option (List (String × List Byte) × List Bool) :=
  match runStmts v script State.reset (HostEnv.start polls) with
  | .ok (_, env) => some (env.names, env.claims)
  | .error _ => none

/-- R98, in the sequencer view: `RUN` polls past a first read of `BUSY`, `EXPECT` tells a claim that holds from one that
does not, `OUT` names the result, and `KEY <name>` writes it. -/
theorem test_script :
    scriptEnd .sequencer
        [.ksn ksn1, .run .getctr, .expect .olen 3#32, .expect .errcode 0x10#32, .out "ctr", .key (.name "ctr"),
          .expect .klen 3#32] [1, 1] =
      some ([("ctr", bytesN 3 1)], [true, false, true]) := by decide +kernel
/-- Scripts that stop: too few engine turns, a name no `OUT` gave, a KSN of nine bytes. -/
theorem test_script_stops :
    scriptEnd .sequencer [.ksn ksn1, .run .getctr] [1] = none ∧ scriptEnd .functional [.key (.name "k")] [] = none ∧
      scriptEnd .functional [.ksn (zeros 9)] [] = none := by decide +kernel

/-! ### Witnesses: for each statement with hypotheses, states that meet them -/

/-- An idle instance whose key has 24 bytes and whose `DIN` is full. -/
def keyed24 : State := idleWith (small true) tdesKey (bytesN 16 0x00112233445566778899AABBCCDDEEFF) ksn1

/-- An operand length of `KEY` past its 24 bytes, and one of `DIN` past its 16. -/
def longKey : State := { keyed with klen := 25#5 }
def longData : State := { keyed24 with dlen := 17#11 }

/-- `keyed` with a derivation running, at a stage of its own. -/
def running (i : Instr) (st : Stage) (sr : BitVec 21) : State :=
  { keyed24 with
    klen := if i = .deriveWk ∨ i = .deriveSk then 16#5 else 24#5
    cmd := encode i, busy := true, stage := st, sr := sr, curkey := ipek, ctr := 1#21
    ksnr := 0x9876543210E00000#64 }

theorem witness_DecodeAndEncodeAgree :
    Instr.encAes.wellFormed = true ∧ decode 0x00000210#32 = .ok .encAes := by decide

theorem witness_IllegalWordEndsAtOnce : keyed.busy = false ∧ ∀ i : Instr, 0x00000310#32 ≠ encode i :=
  ⟨rfl, by intro i; cases i <;> decide⟩

theorem witness_StepRunsDecodedCommand :
    decode 0x00000040#32 = .ok .decryptTrack ∧
      ({ keyed with agenda := [.command 0x00000040#32, .engine] } : State).agenda =
        .command 0x00000040#32 :: [.engine] := by decide

theorem witness_CmdWriteStartsEngine :
    ∀ i ∈ [Instr.deriveWk, .deriveSk, .deriveIpek, .getctr, .xor],
      keyed.busy = false ∧ legalKlen i keyed.klen.toNat = true ∧ legalDlen keyed.params.dataMax i keyed.dlen.toNat = true ∧
        ({ keyed with agenda := [.write 4 0x000 (encode i)] } : State).agenda = .write 4 0x000 (encode i) :: [] := by
  decide +kernel

/-- The two ends of each range of lengths. -/
theorem witness_OperandTables :
    Instr.encDes ∈ [Instr.encDes, .decDes] ∧ Instr.decTdes ∈ [Instr.encTdes, .decTdes] ∧
      Instr.genKey ∈ [Instr.encAes, .decAes, .deriveWk, .deriveSk, .genKey, .encReg] ∧
      Instr.deriveKey ∈ [Instr.deriveIpek, .deriveKey, .decryptTrack] ∧ Instr.and ∈ [Instr.xor, .and] ∧
      Instr.nop ∈ [Instr.nop, .clear, .getctr] ∧ Instr.decAes ∈ [Instr.decAes, .decryptTrack] ∧
      legalDlen 1008 .decAes 1008 = true ∧ legalDlen 1008 .decAes 1024 = false ∧ legalDlen 16 .decAes 0 = false ∧
      legalKlen .expand3des 1 = true ∧ legalKlen .expand3des 0 = false ∧ legalKlen .xor 24 = true ∧
      readsDin .getctr = false ∧ readsKsn .encReg = true ∧ readsKsn .deriveSk = false := by decide

/-- One state for each of the four errors. -/
theorem witness_StartErrorsInOrder :
    (longKey.busy = false ∧ readsKey .xor = true ∧ 24 < longKey.klen.toNat) ∧
    (longData.busy = false ∧ ¬24 < longData.klen.toNat ∧ readsDin .xor = true ∧
      longData.params.dataMax < longData.dlen.toNat) ∧
    (keyed24.busy = false ∧ ¬24 < keyed24.klen.toNat ∧ ¬keyed24.params.dataMax < keyed24.dlen.toNat ∧
      legalKlen .encDes keyed24.klen.toNat = false) ∧
    (¬keyed24.params.dataMax < ({ keyed24 with dlen := 0#11 } : State).dlen.toNat ∧
      legalKlen .decTdes keyed24.klen.toNat = true ∧ legalDlen keyed24.params.dataMax .decTdes 0 = false) := by
  decide +kernel

/-- The states most statements start from are idle, meet the invariant, and hold a legal key of 16 and of 24 bytes:
for `NopCompletes`, `ClearZeroises`, `GetctrCommand`, `DeriveIpekCommand`, `DeriveWkCommand`, `DeriveSkCommand`,
`DeriveKeyCommand`, `GenKeyAndEncRegCommands`, `ViewsAgree`, `WrittenWordsReadBack`, `IdleReads`, `IdleWritesStore`. -/
theorem witness_idle_keyed :
    (keyed.inv = true ∧ keyed.busy = false ∧ keyed.klen = 16#5) ∧
      (keyed24.inv = true ∧ keyed24.busy = false ∧ keyed24.klen = 24#5) := by decide +kernel

theorem witness_XorAndCommands :
    (keyed24.busy = false ∧ keyed24.inv = true ∧ keyed24.klen.toNat ≤ 24 ∧ keyed24.dlen.toNat ≤ keyed24.params.dataMax) ∧
    (longKey.busy = false ∧ 24 < longKey.klen.toNat) ∧
    (longData.busy = false ∧ longData.klen.toNat ≤ 24 ∧ longData.params.dataMax < longData.dlen.toNat) := by
  decide +kernel

theorem witness_XorAndBytewise : 1 < max (bytesN 2 0x1234).length [7#8].length := by decide

theorem witness_XorAndLaws :
    (bytesN 2 0x1234).length = (bytesN 2 0xA5A5).length ∧ (bytesN 2 0x1234).length < (bytesN 3 7).length := by decide

/-- A full `DIN` with a key of each algorithm. -/
theorem witness_EncryptCommands :
    ∀ k ∈ [desKey, tdesKey, aesKey],
      let s := idleWith (small true) k (bytesN 16 1) ksn0
      s.inv = true ∧ s.busy = false ∧ s.dlen.toNat ≤ s.params.dataMax ∧ s.klen.toNat = k.length ∧
        (s.klen = 8#5 ∨ s.klen = 24#5 ∨ s.klen = 16#5) := by decide +kernel

/-- The hypotheses of a decryption on one operand, for a state `s` whose key has `k` bytes. -/
def decHyps (s : State) (k : BitVec 5) (b : Nat) : Bool :=
  s.inv && !s.busy && decide (0 < s.dlen.toNat) && decide (s.dlen.toNat ≤ s.params.dataMax) && s.klen == k &&
    decide (s.dlen.toNat % b = 0)

/-- With `DEC_UNPAD = 1` and a good padding (the ciphertexts of 3.4), and with `DEC_UNPAD = 0`. -/
theorem witness_DecryptCommands_des :
    decHyps (idleWith (small true) desKey (bytesN 8 0x760D86A352B22982) ksn0) 8#5 8 = true ∧
    pkcs7Unpad (ecb (desD desKey) 8 (bytesN 8 0x760D86A352B22982)) 8 = some (bytesN 7 0x4E6F7720697320) ∧
    decHyps (idleWith (small false) desKey (zeros 16) ksn0) 8#5 8 = true := by decide +kernel
theorem witness_DecryptCommands_tdes :
    decHyps (idleWith (small true) tdesKey (bytesN 8 0xD2F2F43850880F99) ksn0) 24#5 8 = true ∧
    pkcs7Unpad (ecb (tdesD tdesKey) 8 (bytesN 8 0xD2F2F43850880F99)) 8 = some (bytesN 7 0x4E6F7720697320) ∧
    decHyps (idleWith (small false) tdesKey (zeros 16) ksn0) 24#5 8 = true := by decide +kernel
theorem witness_DecryptCommands_aes :
    decHyps (idleWith (small true) aesKey (bytesN 16 0x954F64F2E4E86E9EEE82D20216684899) ksn0) 16#5 16 = true ∧
    pkcs7Unpad (ecb (aesD aesKey) 16 (bytesN 16 0x954F64F2E4E86E9EEE82D20216684899)) 16 = some [] ∧
    decHyps (idleWith (small false) aesKey (zeros 16) ksn0) 16#5 16 = true := by decide +kernel

/-- `DEC_UNPAD = 1` and a bad padding (3.5; blocks of zeros). -/
theorem witness_BadPaddingDeliversNothing_des :
    decHyps (idleWith (small true) desKey (bytesN 8 0x58DCC328D3AAB18C) ksn0) 8#5 8 = true ∧
    pkcs7Unpad (ecb (desD desKey) 8 (bytesN 8 0x58DCC328D3AAB18C)) 8 = none ∧
    decHyps (idleWith (small true) tdesKey (zeros 8) ksn0) 24#5 8 = true ∧
    pkcs7Unpad (ecb (tdesD tdesKey) 8 (zeros 8)) 8 = none := by decide +kernel
theorem witness_BadPaddingDeliversNothing_aes :
    decHyps (idleWith (small true) aesKey (bytesN 16 0x1A2D94B3111CA5F8BDC2C84DCC29EC47) ksn0) 16#5 16 = true ∧
    pkcs7Unpad (ecb (aesD aesKey) 16 (bytesN 16 0x1A2D94B3111CA5F8BDC2C84DCC29EC47)) 16 = none := by decide +kernel
/-- 3.6: V-K1, the session key of counter 0. -/
theorem test_deriveKey_counter_zero : deriveKey bdk ksn0 = bytesN 16 0xEA2B1195B02D1E77A14CED05952DF86B := by
  decide +kernel

theorem witness_BadPaddingDeliversNothing_track :
    decHyps (idleWith (small true) bdk (zeros 16) ksn0) 16#5 16 = true ∧
    pkcs7Unpad (ecb (aesD (deriveKey bdk ksn0)) 16 (zeros 16)) 16 = none := by
  rw [test_deriveKey_counter_zero]
  decide +kernel

theorem witness_DecryptTrackCommand :
    decHyps (idleWith (small false) tdesKey (zeros 16) ksn0) 24#5 16 = true ∧
    decHyps (idleWith (small true) bdk (bytesN 16 0xE03F7396F282DE0F25D34AA9A856FACB) ksn0) 16#5 16 = true ∧
    pkcs7Unpad (ecb (aesD (deriveKey bdk ksn0)) 16 (bytesN 16 0xE03F7396F282DE0F25D34AA9A856FACB)) 16 = some [0x42#8] := by
  rw [test_deriveKey_counter_zero]
  decide +kernel

/-- Both ends of the range of `B`, and a sequence that unpads. -/
theorem witness_PaddingRules :
    pkcs7Unpad (pkcs7Pad [7#8] 1) 1 = some [7#8] ∧ pkcs7Unpad (pkcs7Pad [] 255) 255 = some [] ∧
      pkcs7Unpad [1#8] 8 = some [] := by decide +kernel

theorem witness_Expand3desCommand :
    (let s := idleWith (small true) [0xA5#8] [] ksn0
     s.inv = true ∧ s.busy = false ∧ 1 ≤ s.klen.toNat ∧ s.klen.toNat ≤ 24) ∧
    (keyed24.inv = true ∧ keyed24.busy = false ∧ keyed24.klen.toNat ≤ 24) ∧
    (longKey.inv = true ∧ longKey.busy = false ∧ 24 < longKey.klen.toNat) ∧
    (let s := idleWith (small true) [] [] ksn0
     s.inv = true ∧ s.busy = false ∧ s.klen = 0#5) := by decide +kernel

/-- A command in the functional view, and an engine step of a running one. -/
theorem witness_OperandsPersist :
    Instr.getctr ≠ .clear ∧ answersNext (exec .getctr keyed) = true ∧
      decode (running .deriveKey .wkInit 0#21).cmd = .ok .deriveKey ∧
      (engineStep (running .deriveKey .wkInit 0#21)).isSome = true := by decide +kernel

theorem witness_ErrorsDeliverNothing :
    longKey.busy = false ∧ exec .xor longKey = .next (stateOf (exec .xor longKey)) ∧
      (stateOf (exec .xor longKey)).err = true := ⟨rfl, rfl, by decide +kernel⟩

/-- Two idle states with the same operands for `XOR` and other values elsewhere. -/
theorem witness_OnlyListedOperandsMatter :
    let s1 := keyed
    let s2 := { keyed with key := ipek ++ bytesN 8 7, ksn := ksn0, iv := bytesN 8 9, olen := 3#11, done := true }
    s1.busy = false ∧ s2.busy = false ∧ s1.params = s2.params ∧ s1.klen = s2.klen ∧
      s1.key.take s1.klen.toNat = s2.key.take s2.klen.toNat ∧ s1.dlen = s2.dlen ∧
      s1.din.take s1.dlen.toNat = s2.din.take s2.dlen.toNat ∧ readsKsn .xor = false ∧
      answersNext (exec .xor s1) = true ∧ answersNext (exec .xor s2) = true := by decide +kernel

/-- A busy state of the invariant, and an address of each kind. -/
theorem witness_BusyHostAccess :
    (running .deriveKey .wkIter 0x100000#21).inv = true ∧ (running .deriveKey .wkIter 0x100000#21).busy = true ∧
      ∀ a ∈ [0x000, 0x004, 0x008, 0x018, 0x01C, 0x020, 0x7FC, 0xC0C], (admittedReg 4 a).toBool = true := by decide +kernel

/-- The first and the last word of each array of the map. -/
theorem witness_IdleReads :
    keyed.busy = false ∧
      ∀ a ∈ [0x020, 0x020 + 4 * 5, 0x040 + 4 * 2, 0x050 + 4 * 1, 0x400 + 4 * 255, 0x800 + 4 * 259],
        answersNext (hostRead 4 a keyed) = true := by decide +kernel

theorem witness_WordsPackBigEndian :
    3 < 4 ∧ 4 + 1 < (zeros 6).length ∧ ¬(4 + 2 < (zeros 6).length) ∧ (3 < 4 ∨ 4 + 4 ≤ 3) ∧ (8 < 4 ∨ 4 + 4 ≤ 8) := by decide

theorem witness_IdleWritesStore :
    keyed.busy = false ∧ 0x01C ∈ [0x004, 0x008, 0x014, 0x018, 0x01C] ∧ (0x800 ≤ 0xC0C ∧ 0xC0C ≤ 0xC0F ∧ 0xC0C % 4 = 0) ∧
      answersNext (hostWrite 4 (0x400 + 4 * 255) 1#32 keyed) = true ∧ answersNext (hostWrite 4 0x01C 1#32 keyed) = true := by
  decide +kernel

/-- A refused access of each kind, and an admitted one. -/
theorem witness_OnlyUnadmittedAccessRefused :
    answersRefused (step { keyed with agenda := [.read 1 0x004] }) = true ∧
      answersRefused (step { keyed with agenda := [.write 4 0x006 0#32] }) = true ∧
      answersRefused (step { keyed with agenda := [.write 4 0x038 0#32] }) = true ∧
      answersRefused (step { keyed with agenda := [.read 4 0xC10] }) = true ∧
      answersRefused (step { keyed with agenda := [.read 4 0xC0C] }) = false := by decide +kernel

theorem witness_EngineStepEnabled :
    keyed.busy = false ∧ (running .deriveWk .wkIter 1#21).inv = true ∧ (running .deriveWk .wkIter 1#21).busy = true := by
  decide +kernel

/-- A set and a clear counter bit, the last shift of `DERIVE_WK`, and of `DERIVE_KEY`. -/
theorem witness_WkIterStep :
    (let s := running .deriveWk .wkIter 0x100000#21
     s.inv = true ∧ s.busy = true ∧ s.stage = .wkIter ∧ decode s.cmd = .ok .deriveWk ∧ s.sr >>> 1 ≠ 0#21 ∧ s.sr &&& s.ctr = 0#21) ∧
    (let s := running .deriveWk .wkIter 1#21
     s.inv = true ∧ decode s.cmd = .ok .deriveWk ∧ s.sr >>> 1 = 0#21 ∧ s.sr &&& s.ctr ≠ 0#21) ∧
    (let s := running .deriveKey .wkIter 1#21
     s.inv = true ∧ decode s.cmd = .ok .deriveKey ∧ s.sr >>> 1 = 0#21) := by decide +kernel

theorem witness_FinishPublishes :
    (let s := { running .decryptTrack .finish 0#21 with perr := 0x0302#16 }
     s.busy = true ∧ decode s.cmd = .ok .decryptTrack ∧ s.stage = .finish ∧ s.perr ≠ 0#16) ∧
    (let s := { running .deriveKey .finish 0#21 with res := ipek, rlen := 16#11 }
     s.busy = true ∧ decode s.cmd = .ok .deriveKey ∧ s.stage = .finish ∧ s.perr = 0#16 ∧ s.res.length = s.rlen.toNat) ∧
    (let s := running .deriveKey .wkInit 0#21
     s.stage ≠ .finish ∧ (engineStep s).isSome = true) := by decide +kernel

/-- A state of the invariant at each stage, with its step. -/
theorem witness_StageTransitions :
    ∀ x ∈ [(Instr.getctr, Stage.exec, 0#21), (.deriveKey, .ipek, 0#21), (.deriveIpek, .ipek, 0#21), (.deriveKey, .wkInit, 0#21),
        (.deriveKey, .wkIter, 2#21), (.deriveWk, .wkIter, 1#21), (.deriveKey, .wkIter, 1#21), (.deriveKey, .session, 0#21),
        (.decryptTrack, .session, 0#21), (.decryptTrack, .track, 0#21), (.deriveKey, .finish, 0#21)],
      let s := running x.1 x.2.1 x.2.2
      s.inv = true ∧ decode s.cmd = .ok x.1 ∧ (engineStep s).isSome = true := by decide +kernel

theorem witness_EveryCommandEnds :
    keyed.inv = true ∧ keyed.busy = false ∧ startError .deriveWk keyed = none ∧ startError .decryptTrack keyed = none ∧
      startError .getctr keyed = none := by decide +kernel

/-- Entry to the loop, its first step, and its last. -/
theorem witness_WorkingKeyLoopInvariant :
    (let s := running .deriveWk .wkInit 0#21
     s.inv = true ∧ s.stage = .wkInit ∧ s.curkey = ipek ∧ (engineStep s).isSome = true) ∧
    (let s := running .deriveWk .wkIter 0x100000#21
     s.inv = true ∧ s.stage = .wkIter ∧ (engineStep s).isSome = true ∧ s.loopInv (19 + 1) ipek) ∧
    (let s := running .deriveWk .wkIter 1#21
     s.inv = true ∧ s.stage = .wkIter ∧ (engineStep s).isSome = true ∧ s.loopInv 0 ipek) := by
  refine ⟨?_, ?_, ?_⟩
  · decide +kernel
  · exact ⟨by decide +kernel, by decide +kernel, by decide +kernel, by unfold State.loopInv; decide +kernel⟩
  · exact ⟨by decide +kernel, by decide +kernel, by decide +kernel, by unfold State.loopInv; decide +kernel⟩

theorem witness_InvAtReset : Params.wellFormed { dataMax := 1008, decUnpad := false } = true := by decide

theorem witness_EveryStepKeepsInv :
    (running .deriveKey .wkIter 2#21).inv = true ∧ answersNext (step (running .deriveKey .wkIter 2#21)) = true := by
  decide +kernel

/-- A run that reaches an error, and one that reaches a busy state in the loop; and one on a small instance. -/
theorem witness_ReachableStates :
    Params.taken.wellFormed = true ∧ (small false).wellFormed = true ∧
    answersNext (runSteps 1 { State.resetOf (small false) with agenda := [.command 0x23#32] }) = true ∧
    (let o := runSteps 2 { State.resetOf Params.taken with agenda := [.write 4 0x00C 25#32, .command 0x21#32] }
     answersNext o = true ∧ (stateOf o).err = true ∧ (stateOf o).busy = false) ∧
    (let o := runSteps 3 { State.resetOf Params.taken with agenda := [.write 4 0x00C 16#32, .write 4 0x000 0x31#32, .engine] }
     answersNext o = true ∧ (stateOf o).busy = true ∧ (stateOf o).sr ≠ 0#21) := by decide +kernel

theorem witness_ControlFlowIndependentOfOperands :
    let s1 := running .deriveWk .wkIter 2#21
    let s2 := { s1 with ctr := 0x1FFFFF#21, curkey := zeros 16, key := zeros 24 }
    s1.inv = true ∧ s2.inv = true ∧ s1.busy = true ∧ s2.busy = true ∧ s1.cmd = s2.cmd ∧ s1.stage = s2.stage ∧
      s1.sr = s2.sr ∧ (engineRun 1 s1).isSome = true := by decide +kernel

/-- Reset in the middle of a command; the last word of the map. -/
theorem witness_ResetFromAnyState :
    ({ running .deriveKey .wkIter 4#21 with agenda := [.reset] } : State).agenda = .reset :: [] ∧
      mapAddr 0xC0C = some (.dout 1036) := by decide

theorem witness_BlockCiphersInvert :
    desKey.length = keyLength .des ∧ tdesKey.length = keyLength .tdes ∧ aesKey.length = keyLength .aes ∧
      (zeros 8).length = blockWidth .tdes ∧ (zeros 16).length = blockWidth .aes := by decide

theorem witness_DecryptEncryptRoundTrip :
    desKey.length = keyLength .des ∧ (encrypt .des desKey [1#8]).toBool = true ∧
      (decrypt true .des desKey (bytesN 8 0x760D86A352B22982)).toBool = true := by decide +kernel

theorem witness_FirstBlockLaw : 8 ≤ (zeros 8).length := by decide

theorem witness_TripleDesOfEqualKeysIsDes : desKey.length = 8 ∧ (zeros 8).length = 8 := by decide

/-- 3.3: the key with its parity bits cleared. -/
theorem witness_ParityBitsIgnored :
    desKey.length = 8 ∧ (bytesN 8 0x0022446688AACCEE).length = 8 ∧
      ∀ i, i < 8 → (desKey.getD i 0#8).toNat / 2 = ((bytesN 8 0x0022446688AACCEE).getD i 0#8).toNat / 2 := by decide +kernel

/-- Two KSNs that differ in every counter bit. -/
theorem witness_IpekIgnoresCounter :
    ksn0.length = 10 ∧ (bytesN 10 0xFFFF9876543210FFFFFF).length = 10 ∧
      val ksn0 / 2 ^ 21 = val (bytesN 10 0xFFFF9876543210FFFFFF) / 2 ^ 21 := by decide +kernel

theorem witness_WorkingKeyCorners :
    ksn0.length = 10 ∧ val ksn0 % 2 ^ 21 = 0 ∧ (bytesN 10 0x00009876543210E00000).length = 10 ∧
      ksn0.drop 2 = (bytesN 10 0x00009876543210E00000).drop 2 := by decide +kernel

theorem witness_DeriveKeyInThreeCommands :
    State.reset.inv = true ∧ State.reset.busy = false ∧ bdk.length = 16 ∧ tdesKey.length = 24 ∧ ksn1.length = 10 ∧
      3 ≤ [0, 5, 0].length := by decide +kernel

/-- The ends of each range of digits and the characters next to them; an odd length. -/
theorem witness_HexParsingIsStrict :
    (∀ c ∈ ['0', '9', 'A', 'F', 'a', 'f'], ('0' ≤ c ∧ c ≤ '9') ∨ ('A' ≤ c ∧ c ≤ 'F') ∨ ('a' ≤ c ∧ c ≤ 'f')) ∧
    (∀ c ∈ ['/', ':', '@', 'G', '`', 'g'], ¬(('0' ≤ c ∧ c ≤ '9') ∨ ('A' ≤ c ∧ c ≤ 'F') ∨ ('a' ≤ c ∧ c ≤ 'f'))) ∧
    (['1', ' ', '2', '3'].filter fun c => c ≠ ' ').length % 2 = 1 ∧
    bytesFromHex ['f', ' ', 'F'] = .ok [0xFF#8] :=
  ⟨by simp, by simp, by decide, by decide +kernel⟩

theorem witness_AsciiIsStrict :
    (∃ x ∈ [0x41#8, 0x80#8], 128 ≤ x.toNat) ∧ ∀ x ∈ [0x00#8, 0x7F#8], x.toNat < 128 := by decide

/-- A ciphertext of the capacity of a small instance. -/
theorem witness_DecryptTrackProcedure :
    keyed.inv = true ∧ keyed.busy = false ∧ [0] ≠ [] ∧ bdk.length = 16 ∧ bytesFromHex (List.replicate 32 '0') = .ok (zeros 16) ∧
      bytesFromHex (hexFromBytes ksn1) = .ok ksn1 ∧ ksn1.length = 10 ∧ (zeros 16).length ≤ keyed.params.dataMax := by
  decide +kernel

theorem witness_InstancesShareNothing :
    [State.reset, keyed][1]? = some keyed ∧ stepInstance 1 [State.reset, keyed] = .next [State.reset, keyed] := ⟨rfl, rfl⟩

/-- Just enough engine turns for a command and one too few; one poll in the functional view; the last word of the map. -/
theorem witness_ScriptStatements :
    (keyed.inv = true ∧ keyed.busy = false ∧ answersNext (exec .deriveWk keyed) = true) ∧
    (let env := HostEnv.start [22, 1]
     env.polls ≠ [] ∧ engineSteps .deriveWk ≤ env.polls.sum) ∧
    (HostEnv.start [0]).polls ≠ [] ∧
    (startError .deriveWk keyed = none ∧ (HostEnv.start [22]).polls.sum < engineSteps .deriveWk) ∧
    (admittedReg 4 (regAddr (.dout 1036)) = .ok (.dout 1036) ∧ admittedReg 4 (regAddr .cmd) = .ok .cmd) := by
  decide +kernel

end Sys2Proof.Tests
end

section
/-! SUPPORT. What a command computes, as one function for the nineteen arms of `exec`, and that every result fits
`DOUT`. -/

namespace Sys2Proof.Machine

/-! ### What a command computes -/

/-- R92, R93: the decoder reads the word of every command back. -/
@[simp] theorem decode_encode (i : Instr) : decode (encode i) = .ok i := by cases i <;> decide

/-- The function of its operands that a command computes, in the functional view (R246): at `EXEC` the one of R233, and
for the commands without that stage the derivations of R215 to R218 and R260. -/
def commandResult (i : Instr) (s : State) : Except Err (List Byte) :=
  match i with
  | .deriveIpek => .ok (deriveIPEK (keyOperand s) s.ksn)
  | .deriveWk => .ok (deriveWorkingKey s.ksn (s.key.take 16))
  | .deriveSk => .ok (deriveSessionKey (s.key.take 16))
  | .deriveKey => .ok (deriveKey (keyOperand s) s.ksn)
  | .decryptTrack => trackResult s
  | i => (execFunction i s).getD (.ok [])

/-- The operands a command leaves: `CLEAR` zeroises them, no other command touches them (R271, R318). -/
def commandOperands (i : Instr) (s : State) : State := if i = .clear then clearOperands s else s

/-- Every arm of `exec` is the start sequence of its command, its result and its effect on the operands (R19, R246). -/
theorem exec_eq_runCommand (i : Instr) :
    exec i = runCommand i fun t => conclude (commandResult i t) (commandOperands i t) := by
  cases i <;> rfl

/-- A command with an `EXEC` stage computes there what its functional view computes. -/
theorem execFunction_eq_commandResult (i : Instr) (s : State) (r : Except Err (List Byte))
    (h : execFunction i s = some r) : commandResult i s = r := by
  cases i <;> simp_all [commandResult, execFunction]

/-- The commands of the first row of R231 have a function at `EXEC`. -/
theorem execFunction_of_firstStage (i : Instr) (s : State) (h : firstStage i = .exec) :
    execFunction i s = some (commandResult i s) := by
  cases i <;> simp_all [firstStage, commandResult, execFunction]

/-! ### The sizes of R20, named -/

/-- `State.sizesOk`, clause by clause. -/
structure Sizes (s : State) : Prop where
  params : s.params.wellFormed = true
  key : s.key.length = 24
  ksn : s.ksn.length = 10
  iv : s.iv.length = 8
  din : s.din.length = s.params.dataMax
  dout : s.dout.length = s.params.doutMax
  curkey : s.curkey.length = 16
  olen : s.olen.toNat ≤ s.params.doutMax
  res : s.res.length ≤ s.params.doutMax
  rlen : s.rlen.toNat = s.res.length

theorem sizesOk_iff (s : State) : s.sizesOk = true ↔ Sizes s := by
  simp only [State.sizesOk, Bool.and_eq_true, beq_iff_eq, decide_eq_true_eq]
  constructor
  · rintro ⟨⟨⟨⟨⟨⟨⟨⟨⟨h1, h2⟩, h3⟩, h4⟩, h5⟩, h6⟩, h7⟩, h8⟩, h9⟩, h10⟩
    exact ⟨h1, h2, h3, h4, h5, h6, h7, h8, h9, h10⟩
  · rintro ⟨h1, h2, h3, h4, h5, h6, h7, h8, h9, h10⟩
    exact ⟨⟨⟨⟨⟨⟨⟨⟨⟨h1, h2⟩, h3⟩, h4⟩, h5⟩, h6⟩, h7⟩, h8⟩, h9⟩, h10⟩

/-- R8: the range of the capacity of `DOUT`. -/
theorem doutMax_bounds (p : Params) (h : p.wellFormed = true) :
    p.doutMax = p.dataMax + 16 ∧ 16 ≤ p.dataMax ∧ p.dataMax ≤ 1008 := by
  simp only [Params.wellFormed, Bool.and_eq_true, decide_eq_true_eq] at h
  exact ⟨rfl, h.1.1, h.1.2⟩

theorem keyOperand_length (s : State) (h : Sizes s) : (keyOperand s).length = min s.klen.toNat 24 := by
  simp [keyOperand, h.key]

theorem dataOperand_length (s : State) (h : Sizes s) :
    (dataOperand s).length = min s.dlen.toNat s.params.dataMax := by
  simp [dataOperand, h.din]

/-! ### Results that can be published -/

/-- What `FINISH` can publish without loss (R27, R244, R285): a result that fits `DOUT`, or the padding error. -/
def Publishable (p : Params) (r : Except Err (List Byte)) : Prop :=
  match r with
  | .ok b => b.length ≤ p.doutMax
  | .error e => e = cipherFailed 3#8

theorem publishable_encrypt (p : Params) (hp : p.wellFormed = true) (alg : Alg) (key data : List Byte)
    (hk : key.length = keyLength alg) (hd : data.length ≤ p.dataMax) : Publishable p (encrypt alg key data) := by
  have hb : blockWidth alg ≤ 16 := by cases alg <;> decide
  have hm := (doutMax_bounds p hp).1
  rw [encrypt_eq_ok alg key data hk, Publishable, ecbEncrypt_length alg key data hk]
  omega

theorem publishable_decrypt (p : Params) (hp : p.wellFormed = true) (unpad : Bool) (alg : Alg) (key data : List Byte)
    (hk : key.length = keyLength alg) (h0 : data.length ≠ 0) (hw : data.length % blockWidth alg = 0)
    (hd : data.length ≤ p.dataMax) : Publishable p (decrypt unpad alg key data) := by
  have hm := (doutMax_bounds p hp).1
  cases hr : decrypt unpad alg key data with
  | ok b =>
    have hb := decrypt_length_le unpad alg key data b hr
    simp only [Publishable]
    omega
  | error e =>
    rw [decrypt_legal unpad alg key data hk h0 hw] at hr
    split at hr
    · split at hr <;> cases hr
      rfl
    · cases hr

theorem wholeBlocks_iff (b m n : Nat) : wholeBlocks b m n = true ↔ 0 < n ∧ n % b = 0 ∧ n ≤ m := by
  simp [wholeBlocks, and_assoc]

/-- What `DECRYPT_TRACK` makes of its data under a 16-byte key can be published (R240, R260). -/
theorem publishable_decryptTrack (s : State) (hs : Sizes s) (he : startError .decryptTrack s = none) (key : List Byte)
    (hk : key.length = 16) : Publishable s.params (decrypt s.params.decUnpad .aes key (dataOperand s)) := by
  obtain ⟨hpos, hmod, hle⟩ := (wholeBlocks_iff _ _ _).1 (startError_none_legal .decryptTrack s he).2
  have hdata : (dataOperand s).length = s.dlen.toNat := (dataOperand_length s hs).trans (Nat.min_eq_left hle)
  exact publishable_decrypt _ hs.params _ _ _ _ hk (by omega) (by rw [hdata]; exact hmod) (by omega)

/-- What a command that passes its start checks computes can be published. -/
theorem publishable_commandResult (i : Instr) (s : State) (hs : Sizes s) (he : startError i s = none) :
    Publishable s.params (commandResult i s) := by
  obtain ⟨hk, hd⟩ := startError_none_legal i s he
  obtain ⟨hm, h16, -⟩ := doutMax_bounds s.params hs.params
  have hkey := keyOperand_length s hs
  have hdata := dataOperand_length s hs
  have hksn := hs.ksn
  have htake : (s.key.take 16).length = 16 := by simp [hs.key]
  cases i <;> simp only [legalKlen, legalDlen, wholeBlocks_iff, beq_iff_eq, Bool.or_eq_true, Bool.and_eq_true,
    decide_eq_true_eq] at hk hd <;> simp only [commandResult, execFunction, Option.getD_some]
  case encDes | encTdes | encAes =>
    exact publishable_encrypt _ hs.params _ _ _ (by simp only [keyLength]; omega) (by omega)
  case decDes | decTdes | decAes =>
    exact publishable_decrypt _ hs.params _ _ _ _ (by simp only [keyLength]; omega) (by omega)
      (by simp only [blockWidth]; rw [hdata, Nat.min_eq_left hd.2.2]; exact hd.2.1) (by omega)
  case decryptTrack => exact publishable_decryptTrack s hs he _ (deriveKey_length _ _)
  case genKey => simp only [Publishable, generateKey_length _ _ (hkey.trans (by omega))]; omega
  case encReg => simp only [Publishable, encryptRegister_length _ _ (hkey.trans (by omega))]; omega
  case deriveWk => simp only [Publishable, deriveWorkingKey_length _ _ htake]; omega
  case getctr => simp only [Publishable, getCounterBits_length]; omega
  all_goals
    simp only [Publishable, List.length_nil, expand3DES_length, xorBytes_length, andBytes_length, deriveIPEK_length,
      deriveSessionKey_length, deriveKey_length]
    omega

end Sys2Proof.Machine
end

section
/-! SUPPORT. The invariant of Safety.lean as structures with named clauses, and the two ends of a command in the functional
view. -/

namespace Sys2Proof.Machine

/-! ### The invariant, named clause by clause -/

theorem allZero_iff (b : List Byte) : allZero b = true ↔ b = zeros b.length := by
  simp [allZero, zeros, List.eq_replicate_iff]

/-- No engine work: `BUSY = 0`, the stage `IDLE` and the transients of R37 zero. -/
structure AtRest (s : State) : Prop where
  busy : s.busy = false
  stage : s.stage = .idle
  sr : s.sr = 0#21
  ctr : s.ctr = 0#21
  ksnr : s.ksnr = 0#64
  curkey : s.curkey = zeros 16
  res : s.res = []
  rlen : s.rlen = 0#11
  perr : s.perr = 0#16

/-- The state as it is once the engine's registers are back at rest (R37, R244). -/
def retire (s : State) : State :=
  { s with
    busy := false, stage := .idle, sr := 0#21, ctr := 0#21, ksnr := 0#64, curkey := zeros 16, res := [], rlen := 0#11
    perr := 0#16 }

theorem atRest_retire (s : State) : AtRest (retire s) := ⟨rfl, rfl, rfl, rfl, rfl, rfl, rfl, rfl, rfl⟩

theorem AtRest.retire_eq {s : State} (h : AtRest s) : retire s = s := by
  obtain ⟨hbusy, hstage, hsr, hctr, hksnr, hcurkey, hres, hrlen, hperr⟩ := h
  cases s
  simp_all [retire]

/-- Nothing is published (R30, R94 step 2): no flag but `BUSY`, no code, no result. -/
structure Quiet (s : State) : Prop where
  sizes : Sizes s
  done : s.done = false
  err : s.err = false
  errcode : s.errcode = 0#16
  olen : s.olen = 0#11
  dout : s.dout = zeros s.params.doutMax

/-- A state with `BUSY = 0` that meets the invariant (R27, R30, R245). -/
structure Idle (s : State) : Prop where
  sizes : Sizes s
  rest : AtRest s
  failed : s.err = true → s.done = true ∧ s.errcode ≠ 0#16 ∧ s.olen = 0#11 ∧ allZero s.dout = true
  succeeded : s.err = false → s.errcode = 0#16
  tail : allZero (s.dout.drop s.olen.toNat) = true

/-- A state with `BUSY = 1` that meets the invariant (R30, R34, R230, R231, R245), with the command `op` in `CMD`. -/
structure Running (op : Instr) (s : State) : Prop where
  quiet : Quiet s
  busy : s.busy = true
  decodes : decode s.cmd = .ok op
  started : startError op s = none
  stage : s.stage ∈ stagesOf op
  loop : if s.stage = .wkIter then oneHot s.sr = true else s.sr = 0#21
  unheld : s.stage ≠ .finish → s.res = [] ∧ s.rlen = 0#11 ∧ s.perr = 0#16
  pending : s.perr = 0#16 ∨ (s.perr = 0x0302#16 ∧ s.res = [])

theorem idleOk_iff (s : State) (hs : Sizes s) (hb : s.busy = false) : s.idleOk = true ↔ Idle s := by
  simp only [State.idleOk, State.transientsZero, State.resultZero, Bool.and_eq_true, beq_iff_eq]
  constructor
  · rintro ⟨⟨⟨hstage, ⟨⟨⟨⟨⟨hsr, hctr⟩, hksnr⟩, hcurkey⟩, hres⟩, hrlen⟩, hperr⟩, herr⟩, htail⟩
    refine ⟨hs, ⟨hb, hstage, hsr, hctr, hksnr, hcurkey, hres, hrlen, hperr⟩, fun he => ?_, fun he => ?_, htail⟩
    · simpa [he, and_assoc] using herr
    · simpa [he] using herr
  · rintro ⟨-, ⟨-, hstage, hsr, hctr, hksnr, hcurkey, hres, hrlen, hperr⟩, hfail, hok, htail⟩
    refine ⟨⟨⟨hstage, ⟨⟨⟨⟨⟨hsr, hctr⟩, hksnr⟩, hcurkey⟩, hres⟩, hrlen⟩, hperr⟩, ?_⟩, htail⟩
    cases he : s.err with
    | true => simpa [and_assoc] using hfail he
    | false => simpa using hok he

theorem inv_iff_idle (s : State) (hb : s.busy = false) : s.inv = true ↔ Idle s := by
  simp only [State.inv, hb, Bool.and_eq_true, sizesOk_iff, Bool.false_eq_true, if_false]
  exact ⟨fun ⟨hs, hi⟩ => (idleOk_iff s hs hb).1 hi, fun h => ⟨h.sizes, (idleOk_iff s h.sizes hb).2 h⟩⟩

theorem runningOk_iff (s : State) :
    s.runningOk = true ↔ ∃ op, decode s.cmd = .ok op ∧ s.stage ∈ stagesOf op ∧ startError op s = none := by
  unfold State.runningOk
  cases hd : decode s.cmd with
  | ok op => simp
  | error r => simp

theorem busyOk_iff (s : State) (hs : Sizes s) (hb : s.busy = true) : s.busyOk = true ↔ ∃ op, Running op s := by
  have hloop : (if s.stage = .wkIter then oneHot s.sr else s.sr == 0#21) = true ↔
      if s.stage = .wkIter then oneHot s.sr = true else s.sr = 0#21 := by split <;> simp
  have hout : allZero s.dout = true ↔ s.dout = zeros s.params.doutMax := by rw [allZero_iff, hs.dout]
  simp only [State.busyOk, State.resultZero, Bool.and_eq_true, Bool.or_eq_true, Bool.not_eq_true', beq_iff_eq, hloop, hout,
    runningOk_iff]
  constructor
  · rintro ⟨⟨⟨⟨⟨⟨⟨hdone, herr⟩, hcode⟩, holen, hdout⟩, op, hd, hstage, hstart⟩, hsr⟩, hheld⟩, hpend⟩
    exact ⟨op, ⟨hs, hdone, herr, hcode, holen, hdout⟩, hb, hd, hstart, hstage, hsr,
      fun hne => by simpa [hne, and_assoc] using hheld, hpend⟩
  · rintro ⟨op, ⟨-, hdone, herr, hcode, holen, hdout⟩, -, hd, hstart, hstage, hsr, hheld, hpend⟩
    refine ⟨⟨⟨⟨⟨⟨⟨hdone, herr⟩, hcode⟩, holen, hdout⟩, op, hd, hstage, hstart⟩, hsr⟩, ?_⟩, hpend⟩
    by_cases hf : s.stage = .finish
    · exact .inl hf
    · exact .inr (by simpa [and_assoc] using hheld hf)

theorem inv_iff_running (s : State) (hb : s.busy = true) : s.inv = true ↔ ∃ op, Running op s := by
  simp only [State.inv, hb, Bool.and_eq_true, sizesOk_iff, if_true]
  exact ⟨fun ⟨hs, hi⟩ => (busyOk_iff s hs hb).1 hi,
    fun ⟨op, h⟩ => ⟨h.quiet.sizes, (busyOk_iff s h.quiet.sizes hb).2 ⟨op, h⟩⟩⟩

/-! ### A command that has begun, and its end -/

/-- After steps 1 and 2 of R94: nothing is published and the engine is at rest. -/
structure Begun (s : State) : Prop where
  quiet : Quiet s
  rest : AtRest s

theorem begun_beginCommand (w : Word) {s : State} (h : Idle s) : Begun (beginCommand w s) := by
  obtain ⟨hsz, ⟨hbusy, hstage, hsr, hctr, hksnr, hcurkey, hres, hrlen, hperr⟩, -, -, -⟩ := h
  exact ⟨⟨⟨hsz.params, hsz.key, hsz.ksn, hsz.iv, hsz.din, zeros_length _, hsz.curkey, Nat.zero_le _, hsz.res, hsz.rlen⟩,
    rfl, rfl, rfl, rfl, rfl⟩, hbusy, hstage, hsr, hctr, hksnr, hcurkey, hres, hrlen, hperr⟩

theorem Sizes.sizes_clearOperands {s : State} (h : Sizes s) : Sizes (clearOperands s) :=
  ⟨h.params, zeros_length _, zeros_length _, zeros_length _, zeros_length _, h.dout, h.curkey, h.olen, h.res, h.rlen⟩

theorem Quiet.quiet_clearOperands {s : State} (h : Quiet s) : Quiet (clearOperands s) :=
  ⟨h.sizes.sizes_clearOperands, h.done, h.err, h.errcode, h.olen, h.dout⟩

theorem Begun.begun_commandOperands {s : State} (i : Instr) (h : Begun s) : Begun (commandOperands i s) := by
  unfold commandOperands
  split
  · obtain ⟨hq, hbusy, hstage, hsr, hctr, hksnr, hcurkey, hres, hrlen, hperr⟩ := h
    exact ⟨hq.quiet_clearOperands, hbusy, hstage, hsr, hctr, hksnr, hcurkey, hres, hrlen, hperr⟩
  · exact h

theorem Quiet.begun_retire {s : State} (h : Quiet s) : Begun (retire s) := by
  obtain ⟨hsz, hdone, herr, hcode, holen, hdout⟩ := h
  exact ⟨⟨⟨hsz.params, hsz.key, hsz.ksn, hsz.iv, hsz.din, hsz.dout, zeros_length _, hsz.olen, Nat.zero_le _, rfl⟩,
    hdone, herr, hcode, holen, hdout⟩, atRest_retire s⟩

/-- An error entered at the start leaves an idle state of the invariant (R286). -/
theorem Begun.idle_failAtStart {s : State} (h : Begun s) (e : Err) (he : errWord e ≠ 0#16) : Idle (failAtStart e s) := by
  obtain ⟨⟨hsz, -, -, -, holen, hdout⟩, hbusy, hstage, hsr, hctr, hksnr, hcurkey, hres, hrlen, hperr⟩ := h
  refine ⟨⟨hsz.params, hsz.key, hsz.ksn, hsz.iv, hsz.din, hsz.dout, hsz.curkey, hsz.olen, hsz.res, hsz.rlen⟩,
    ⟨hbusy, hstage, hsr, hctr, hksnr, hcurkey, hres, hrlen, hperr⟩, fun _ => ⟨rfl, he, holen, ?_⟩, fun hf => ?_, ?_⟩
  · simp [hdout, allZero_zeros]
  · cases hf
  · simp [hdout, allZero_zeros]

/-- A delivered result that fits leaves an idle state of the invariant (R27, R246). -/
theorem Begun.idle_deliver {s : State} (h : Begun s) (r : List Byte) (hr : r.length ≤ s.params.doutMax) :
    Idle (deliver r s) := by
  obtain ⟨⟨hsz, -, herr, hcode, -, hdout⟩, hbusy, hstage, hsr, hctr, hksnr, hcurkey, hres, hrlen, hperr⟩ := h
  obtain ⟨hm, -, hmax⟩ := doutMax_bounds s.params hsz.params
  have holen : (deliver r s).olen.toNat = r.length := by
    rw [deliver_olen, BitVec.toNat_ofNat]
    exact Nat.mod_eq_of_lt (by omega)
  have hlen : (deliver r s).dout.length = s.params.doutMax := by
    rw [deliver_dout, overlay_length _ _ (hsz.dout ▸ hr), hsz.dout]
  refine ⟨⟨hsz.params, hsz.key, hsz.ksn, hsz.iv, hsz.din, hlen, hsz.curkey, holen ▸ hr, hsz.res, hsz.rlen⟩,
    ⟨hbusy, hstage, hsr, hctr, hksnr, hcurkey, hres, hrlen, hperr⟩, fun he => ?_, fun _ => hcode, ?_⟩
  · simp [herr] at he
  · rw [holen, deliver_dout, hdout, overlay_zeros]
    simp [allZero_zeros]

theorem errWord_padding : errWord (cipherFailed 3#8) = 0x0302#16 := by decide

/-- The end of a command in the functional view (R246). -/
theorem Begun.idle_conclude {s : State} (h : Begun s) (r : Except Err (List Byte)) (hr : Publishable s.params r) :
    Idle (conclude r s) := by
  cases r with
  | ok b => exact h.idle_deliver b hr
  | error e =>
    obtain rfl : e = cipherFailed 3#8 := hr
    exact h.idle_failAtStart _ (by decide)

/-- No start error has the code zero (R284, R285). -/
theorem startError_code_ne_zero (i : Instr) (s : State) (e : Err) (h : startError i s = some e) : errWord e ≠ 0#16 := by
  rcases startError_cases i s e h with ⟨-, -, rfl⟩ | ⟨-, -, rfl⟩ | ⟨-, rfl⟩ | ⟨-, rfl⟩ <;> decide

end Sys2Proof.Machine
end

section
/-! SUPPORT. Every step of the machine keeps the invariant. -/

namespace Sys2Proof.Machine

/-! ### The shift register stays one-hot (R34) -/

theorem oneHot_iff_toNat (x : BitVec 21) : oneHot x = true ↔ x.toNat ≠ 0 ∧ x.toNat &&& (x.toNat - 1) = 0 := by
  have hz : x = 0#21 ↔ x.toNat = 0 := BitVec.toNat_inj.symm
  rw [oneHot, Bool.and_eq_true, decide_eq_true_eq, beq_iff_eq, ne_eq, hz]
  refine and_congr_right fun hx => ?_
  have h1 : (x - 1#21).toNat = x.toNat - 1 := by bv_omega
  rw [← BitVec.toNat_inj, BitVec.toNat_and, h1]
  rfl

/-- A right shift keeps a one-hot value one-hot until the bit leaves at the low end (R238). -/
theorem oneHot_shift (x : BitVec 21) (h : oneHot x = true) (hne : x >>> 1 ≠ 0#21) : oneHot (x >>> 1) = true := by
  rw [oneHot_iff_toNat] at h ⊢
  obtain ⟨hx, hand⟩ := h
  have hshift : (x >>> 1).toNat = x.toNat / 2 := by simp [BitVec.toNat_ushiftRight, Nat.shiftRight_one]
  have hhalf : x.toNat / 2 ≠ 0 := fun h0 => hne (BitVec.eq_of_toNat_eq (by rw [hshift, h0]; rfl))
  rw [hshift]
  refine ⟨hhalf, ?_⟩
  have hdiv : x.toNat / 2 &&& (x.toNat - 1) / 2 = 0 := by rw [← Nat.and_div_two, hand]
  rcases Nat.mod_two_eq_zero_or_one x.toNat with heven | hodd
  · rwa [show (x.toNat - 1) / 2 = x.toNat / 2 - 1 by omega] at hdiv
  · rw [show (x.toNat - 1) / 2 = x.toNat / 2 by omega, Nat.and_self] at hdiv
    exact absurd hdiv hhalf

/-! ### A command before `FINISH` -/

/-- The command `op` runs and its result is not yet held: everything `Running` says but for `STAGE` and `SR`. -/
structure Computing (op : Instr) (s : State) : Prop where
  quiet : Quiet s
  busy : s.busy = true
  decodes : decode s.cmd = .ok op
  started : startError op s = none
  res : s.res = []
  rlen : s.rlen = 0#11
  perr : s.perr = 0#16

theorem Running.computing {op : Instr} {s : State} (h : Running op s) (hne : s.stage ≠ .finish) : Computing op s :=
  have ⟨hres, hrlen, hperr⟩ := h.unheld hne
  ⟨h.quiet, h.busy, h.decodes, h.started, hres, hrlen, hperr⟩

theorem Computing.running {op : Instr} {s : State} (h : Computing op s) (hst : s.stage ∈ stagesOf op)
    (hloop : if s.stage = .wkIter then oneHot s.sr = true else s.sr = 0#21) : Running op s :=
  ⟨h.quiet, h.busy, h.decodes, h.started, hst, hloop, fun _ => ⟨h.res, h.rlen, h.perr⟩, .inl h.perr⟩

/-- The steps before `FINISH` change only these registers (R234 to R239). -/
theorem Computing.update {op : Instr} {s : State} (h : Computing op s) (key : List Byte) (hkey : key.length = 16)
    (c : BitVec 21) (k : BitVec 64) (x : BitVec 21) (st : Stage) :
    Computing op { s with curkey := key, ctr := c, ksnr := k, sr := x, stage := st } := by
  obtain ⟨⟨hsz, hdone, herr, hcode, holen, hdout⟩, hbusy, hdec, hstart, hres, hrlen, hperr⟩ := h
  exact ⟨⟨⟨hsz.params, hsz.key, hsz.ksn, hsz.iv, hsz.din, hsz.dout, hkey, hsz.olen, hsz.res, hsz.rlen⟩,
    hdone, herr, hcode, holen, hdout⟩, hbusy, hdec, hstart, hres, hrlen, hperr⟩

/-- No start check of `CLEAR` reads an operand, so it still passes once they are zero (R96). -/
theorem Computing.computing_commandOperands {op : Instr} {s : State} (h : Computing op s) :
    Computing op (commandOperands op s) := by
  unfold commandOperands
  split
  · subst op
    obtain ⟨hq, hbusy, hdec, -, hres, hrlen, hperr⟩ := h
    exact ⟨hq.quiet_clearOperands, hbusy, hdec, startError_none .clear _ rfl rfl, hres, hrlen, hperr⟩
  · exact h

theorem commandOperands_sr (i : Instr) (s : State) : (commandOperands i s).sr = s.sr := by
  unfold commandOperands; split <;> rfl

theorem commandOperands_params (i : Instr) (s : State) : (commandOperands i s).params = s.params := by
  unfold commandOperands; split <;> rfl

theorem finish_mem_stagesOf (i : Instr) : .finish ∈ stagesOf i := by cases i <;> decide

theorem firstStage_mem_stagesOf (i : Instr) : firstStage i ∈ stagesOf i := by cases i <;> decide

/-- A start that finds no error sets the engine to run the command (R94 steps 8 to 10). -/
theorem Begun.computing_acceptCommand {i : Instr} {s : State} (h : Begun s) (hd : decode s.cmd = .ok i)
    (he : startError i s = none) : Computing i (acceptCommand i s) := by
  obtain ⟨⟨hsz, hdone, herr, hcode, holen, hdout⟩, -, -, -, -, -, -, hres, hrlen, hperr⟩ := h
  have hkey : (acceptCommand i s).curkey.length = 16 := by
    rw [acceptCommand_curkey]
    split
    · simp [hsz.key]
    · exact hsz.curkey
  exact ⟨⟨⟨hsz.params, hsz.key, hsz.ksn, hsz.iv, hsz.din, hsz.dout, hkey, hsz.olen, hsz.res, hsz.rlen⟩,
    hdone, herr, hcode, holen, hdout⟩, rfl, hd, he, hres, hrlen, hperr⟩

theorem Begun.running_acceptCommand {i : Instr} {s : State} (h : Begun s) (hd : decode s.cmd = .ok i)
    (he : startError i s = none) : Running i (acceptCommand i s) := by
  refine (h.computing_acceptCommand hd he).running (firstStage_mem_stagesOf i) ?_
  have hne : firstStage i ≠ .wkIter := by cases i <;> decide
  simpa [hne] using h.rest.sr

/-! ### `FINISH` -/

/-- A result held or an error noted is a good state at `FINISH` (R233, R240, R286). -/
theorem Computing.running_holdOrRaise {op : Instr} {s : State} (h : Computing op s) (hsr : s.sr = 0#21)
    (r : Except Err (List Byte)) (hr : Publishable s.params r) : Running op (holdOrRaise r s) := by
  obtain ⟨⟨hsz, hdone, herr, hcode, holen, hdout⟩, hbusy, hdec, hstart, hres, hrlen, hperr⟩ := h
  have hfin := finish_mem_stagesOf op
  cases r with
  | ok b =>
    obtain ⟨hm, -, hmax⟩ := doutMax_bounds s.params hsz.params
    have hb : b.length ≤ s.params.doutMax := hr
    have hl : (BitVec.ofNat 11 b.length).toNat = b.length := by
      rw [BitVec.toNat_ofNat]
      exact Nat.mod_eq_of_lt (by omega)
    exact ⟨⟨⟨hsz.params, hsz.key, hsz.ksn, hsz.iv, hsz.din, hsz.dout, hsz.curkey, hsz.olen, hb, hl⟩,
      hdone, herr, hcode, holen, hdout⟩, hbusy, hdec, hstart, hfin, hsr, fun hne => absurd rfl hne, .inl hperr⟩
  | error e =>
    obtain rfl : e = cipherFailed 3#8 := hr
    exact ⟨⟨⟨hsz.params, hsz.key, hsz.ksn, hsz.iv, hsz.din, hsz.dout, hsz.curkey, hsz.olen, hsz.res, hsz.rlen⟩,
      hdone, herr, hcode, holen, hdout⟩, hbusy, hdec, hstart, hfin, hsr, fun hne => absurd rfl hne,
      .inr ⟨errWord_padding, hres⟩⟩

/-- `FINISH` without a pending error delivers `RES` and puts the engine to rest (R244). -/
theorem stepFinish_eq_deliver (s : State) (hs : Sizes s) (hp : s.perr = 0#16) :
    stepFinish s = deliver s.res (retire s) := by
  have hlen : s.rlen = BitVec.ofNat 11 s.res.length := by rw [← hs.rlen, BitVec.ofNat_toNat, BitVec.setWidth_eq]
  have htake : s.res.take s.rlen.toNat = s.res := by rw [hs.rlen, List.take_length]
  simp only [stepFinish, publish, hp, ne_eq, not_true_eq_false, if_false, htake]
  rw [hlen]
  rfl

/-- `FINISH` with a pending error publishes it and puts the engine to rest (R244, R286). -/
theorem stepFinish_eq_failAtStart (s : State) (e : Err) (hp : s.perr = errWord e) (he : errWord e ≠ 0#16) :
    stepFinish s = failAtStart e (retire s) := by
  simp only [stepFinish, publish, hp, ne_eq, he, not_false_eq_true, if_true]
  rfl

theorem Running.idle_stepFinish {op : Instr} {s : State} (h : Running op s) : Idle (stepFinish s) := by
  rcases h.pending with hp | ⟨hp, -⟩
  · rw [stepFinish_eq_deliver s h.quiet.sizes hp]
    exact h.quiet.begun_retire.idle_deliver _ h.quiet.sizes.res
  · rw [stepFinish_eq_failAtStart s (cipherFailed 3#8) (hp.trans errWord_padding.symm) (by decide)]
    exact h.quiet.begun_retire.idle_failAtStart _ (by decide)

/-! ### The engine's steps keep the invariant -/

/-- A `WK_ITER` step changes only `KSNR` and `CURKEY` before the shift (R236, R237). -/
theorem counterBitStep_eq (s : State) :
    counterBitStep s = { s with ksnr := (counterBitStep s).ksnr, curkey := (counterBitStep s).curkey } := by
  unfold counterBitStep; split <;> rfl

theorem counterBitStep_curkey_length (s : State) (h : s.curkey.length = 16) :
    (counterBitStep s).curkey.length = 16 := by
  rw [counterBitStep_curkey]
  split
  · exact generateKey_length _ _ h
  · exact h

theorem Running.running_stepExec {op : Instr} {s t : State} (h : Running op s) (hst : s.stage = .exec)
    (ht : stepExec op s = some t) : Running op t := by
  obtain ⟨r, hr, rfl⟩ := stepExec_cases op s t ht
  have hpub := publishable_commandResult op s h.quiet.sizes h.started
  rw [execFunction_eq_commandResult op s r hr, ← commandOperands_params op s] at hpub
  have hsr : (commandOperands op s).sr = 0#21 := by simpa [commandOperands_sr, hst] using h.loop
  exact (h.computing (by simp [hst])).computing_commandOperands.running_holdOrRaise hsr r hpub

/-- A key of 16 bytes fits `DOUT`. -/
theorem publishable_key (p : Params) (hp : p.wellFormed = true) (key : List Byte) (hk : key.length = 16) :
    Publishable p (.ok key) := by
  obtain ⟨hm, -, -⟩ := doutMax_bounds p hp
  simp only [Publishable]
  omega

theorem Running.running_stepIpek {op : Instr} {s t : State} (h : Running op s) (hst : s.stage = .ipek)
    (ht : stepIpek op s = some t) : Running op t := by
  have hc := h.computing (by simp [hst])
  have hsr : s.sr = 0#21 := by simpa [hst] using h.loop
  have hk := deriveIPEK_length (keyOperand s) s.ksn
  rcases stepIpek_cases op s t ht with ⟨-, rfl⟩ | ⟨hop, rfl⟩
  · exact (hc.update _ hk s.ctr s.ksnr s.sr s.stage).running_holdOrRaise hsr (.ok _)
      (publishable_key _ h.quiet.sizes.params _ hk)
  · refine (hc.update _ hk s.ctr s.ksnr s.sr .wkInit).running ?_ hsr
    rcases hop with rfl | rfl <;> simp [stagesOf]

theorem Running.running_stepWkInit {op : Instr} {s t : State} (h : Running op s) (hst : s.stage = .wkInit)
    (ht : stepWkInit op s = some t) : Running op t := by
  have hc := h.computing (by simp [hst])
  obtain ⟨hop, rfl⟩ := stepWkInit_cases op s t ht
  refine (hc.update _ h.quiet.sizes.curkey (counterOf s.ksn) (BitVec.ofNat 64 (val (baseKSN s.ksn))) srInit
    .wkIter).running ?_ ?_
  · rcases hop with rfl | rfl | rfl <;> simp [stagesOf]
  · simp only [if_true]
    decide

theorem Running.running_stepWkIter {op : Instr} {s t : State} (h : Running op s) (hst : s.stage = .wkIter)
    (ht : stepWkIter op s = some t) : Running op t := by
  have hc := h.computing (by simp [hst])
  have hhot : oneHot s.sr = true := by simpa [hst] using h.loop
  have hk := counterBitStep_curkey_length s h.quiet.sizes.curkey
  have hcases := stepWkIter_cases op s t ht
  rw [counterBitStep_eq s] at hcases
  rcases hcases with ⟨hne, rfl⟩ | ⟨-, -, rfl⟩ | ⟨-, hop, rfl⟩
  · refine (hc.update _ hk s.ctr (counterBitStep s).ksnr (s.sr >>> 1) s.stage).running h.stage ?_
    simpa [hst] using oneHot_shift s.sr hhot hne
  · exact (hc.update _ hk s.ctr (counterBitStep s).ksnr 0#21 s.stage).running_holdOrRaise rfl (.ok _)
      (publishable_key _ h.quiet.sizes.params _ hk)
  · refine (hc.update _ hk s.ctr (counterBitStep s).ksnr 0#21 .session).running ?_ rfl
    rcases hop with rfl | rfl <;> simp [stagesOf]

theorem Running.running_stepSession {op : Instr} {s t : State} (h : Running op s) (hst : s.stage = .session)
    (ht : stepSession op s = some t) : Running op t := by
  have hc := h.computing (by simp [hst])
  have hsr : s.sr = 0#21 := by simpa [hst] using h.loop
  have hk := deriveSessionKey_length s.curkey
  rcases stepSession_cases op s t ht with ⟨rfl, rfl⟩ | ⟨-, rfl⟩
  · exact (hc.update _ hk s.ctr s.ksnr s.sr .track).running (by simp [stagesOf]) hsr
  · exact (hc.update _ hk s.ctr s.ksnr s.sr s.stage).running_holdOrRaise hsr (.ok _)
      (publishable_key _ h.quiet.sizes.params _ hk)

theorem Running.running_stepTrack {op : Instr} {s t : State} (h : Running op s) (hst : s.stage = .track)
    (ht : stepTrack op s = some t) : Running op t := by
  obtain ⟨rfl, rfl⟩ := stepTrack_cases op s t ht
  have hsr : s.sr = 0#21 := by simpa [hst] using h.loop
  exact (h.computing (by simp [hst])).running_holdOrRaise hsr _
    (publishable_decryptTrack s h.quiet.sizes h.started _ h.quiet.sizes.curkey)

theorem Running.inv {op : Instr} {s : State} (h : Running op s) : s.inv = true :=
  (inv_iff_running s h.busy).2 ⟨op, h⟩

theorem Idle.inv {s : State} (h : Idle s) : s.inv = true := (inv_iff_idle s h.rest.busy).2 h

/-- An engine step takes a running command to a running command, or from `FINISH` to an idle state (R241, R245). -/
theorem Running.inv_engineStep {op : Instr} {s t : State} (h : Running op s) (ht : engineStep s = some t) :
    t.inv = true := by
  obtain ⟨-, op', hd, hstep⟩ := engineStep_cases s t ht
  obtain rfl : op' = op := by simpa [h.decodes] using hd.symm
  rcases hstep with ⟨hst, ht⟩ | ⟨hst, ht⟩ | ⟨hst, ht⟩ | ⟨hst, ht⟩ | ⟨hst, ht⟩ | ⟨hst, ht⟩ | ⟨-, rfl⟩
  · exact (h.running_stepExec hst ht).inv
  · exact (h.running_stepIpek hst ht).inv
  · exact (h.running_stepWkInit hst ht).inv
  · exact (h.running_stepWkIter hst ht).inv
  · exact (h.running_stepSession hst ht).inv
  · exact (h.running_stepTrack hst ht).inv
  · exact h.idle_stepFinish.inv

theorem inv_engineTurn {s t : State} (h : s.inv = true) (ht : engineTurn s = .next t) : t.inv = true := by
  rcases engineTurn_cases s with ⟨-, hn⟩ | ⟨hb, u, hu, hn⟩ | ⟨-, -, hn⟩
  · rw [hn] at ht; cases ht; exact h
  · rw [hn] at ht
    cases ht
    obtain ⟨op, hrun⟩ := (inv_iff_running s hb).1 h
    exact hrun.inv_engineStep hu
  · rw [hn] at ht; cases ht

/-- Every command's stages are those of a running engine (R231). -/
theorem Running.stage_ne_idle {op : Instr} {s : State} (h : Running op s) : s.stage ≠ .idle := by
  have hidle : Stage.idle ∉ stagesOf op := by cases op <;> decide
  exact fun heq => hidle (heq ▸ h.stage)

/-- An error is pending only for `FINISH` (R36, R245). -/
theorem Running.stage_of_perr {op : Instr} {s : State} (h : Running op s) (hp : s.perr ≠ 0#16) : s.stage = .finish := by
  by_contra hne
  obtain ⟨-, -, hperr⟩ := h.unheld hne
  exact hp hperr

/-! ### The other steps keep the invariant -/

theorem Idle.inv_startCommand {s : State} (h : Idle s) (w : Word) : (startCommand w s).inv = true := by
  have hb := begun_beginCommand w h
  rcases startCommand_cases w s with ⟨-, -, heq⟩ | ⟨i, e, -, he, heq⟩ | ⟨i, hd, he, heq⟩ <;> rw [heq]
  · exact (hb.idle_failAtStart _ (by decide)).inv
  · exact (hb.idle_failAtStart e (startError_code_ne_zero i s e he)).inv
  · exact (hb.running_acceptCommand hd he).inv

/-- A stored write changes an operand register only, so the idle conditions stay (R67). -/
theorem storeReg_idleOk (r : MapReg) (v : Word) (s : State) : (storeReg r v s).idleOk = s.idleOk := by
  cases r <;> rfl

theorem storeReg_busy (r : MapReg) (v : Word) (s : State) : (storeReg r v s).busy = s.busy := by
  cases r <;> rfl

theorem Idle.inv_storeReg {s : State} (h : Idle s) (r : MapReg) (v : Word) : (storeReg r v s).inv = true := by
  have hs := storeReg_sizes r v s ((sizesOk_iff s).2 h.sizes)
  have hi := (idleOk_iff s h.sizes h.rest.busy).2 h
  simp [State.inv, hs, storeReg_busy, h.rest.busy, storeReg_idleOk, hi]

theorem inv_writeValue {s : State} (h : s.inv = true) (r : MapReg) (v : Word) : (writeValue r v s).inv = true := by
  rcases writeValue_cases r v s with ⟨-, heq⟩ | ⟨hb, -, heq⟩ | ⟨hb, -, heq⟩ <;> rw [heq]
  · exact h
  · exact ((inv_iff_idle s hb).1 h).inv_startCommand v
  · exact ((inv_iff_idle s hb).1 h).inv_storeReg r v

/-- In the functional view a command from an idle state of the invariant ends in one (R246). -/
theorem inv_exec {s t : State} (i : Instr) (h : s.inv = true) (ht : exec i s = .next t) : t.inv = true := by
  rw [exec_eq_runCommand] at ht
  rcases runCommand_cases i _ s _ ht with ⟨-, ho⟩ | ⟨e, hb, he, ho⟩ | ⟨hb, he, ho⟩ <;> cases ho
  · exact h
  · exact ((begun_beginCommand _ ((inv_iff_idle s hb).1 h)).idle_failAtStart e (startError_code_ne_zero i s e he)).inv
  · have hbegun := begun_beginCommand (encode i) ((inv_iff_idle s hb).1 h)
    have hpub := publishable_commandResult i _ hbegun.quiet.sizes he
    rw [← commandOperands_params i] at hpub
    exact ((hbegun.begun_commandOperands i).idle_conclude _ hpub).inv

theorem inv_runWord {s t : State} (w : Word) (h : s.inv = true) (ht : runWord w s = .next t) : t.inv = true := by
  unfold runWord at ht
  split at ht
  · exact inv_exec _ h ht
  · cases ht
    unfold startIllegal
    split
    · exact h
    · next hb =>
      exact ((begun_beginCommand w ((inv_iff_idle s (by simpa using hb)).1 h)).idle_failAtStart _ (by decide)).inv

theorem inv_resetOf (p : Params) (hp : p.wellFormed = true) : (State.resetOf p).inv = true := by
  refine Idle.inv ⟨(sizesOk_iff _).1 (resetOf_sizes p hp), ⟨rfl, rfl, rfl, rfl, rfl, rfl, rfl, rfl, rfl⟩, fun he => ?_,
    fun _ => rfl, ?_⟩
  · cases he
  · simp [allZero_zeros]

theorem inv_applyReset {s : State} (h : s.inv = true) : (applyReset s).inv = true := by
  rw [State.inv, Bool.and_eq_true, sizesOk_iff] at h
  exact inv_resetOf s.params h.1.params

/-- Every step keeps the invariant (R245). -/
theorem inv_step {s t : State} (h : s.inv = true) (ht : step s = .next t) : t.inv = true := by
  have hpast : ∀ rest, State.inv { s with agenda := rest } = true := fun _ => h
  rcases step_next_cases s t ht with ⟨-, ht⟩ | ⟨_, _, rest, r, -, -, rfl⟩ | ⟨_, _, v, rest, r, -, -, rfl⟩ |
    ⟨w, rest, -, ht⟩ | ⟨rest, -, ht⟩ | ⟨rest, -, rfl⟩
  · exact inv_engineTurn h ht
  · exact h
  · exact inv_writeValue (hpast rest) r v
  · exact inv_runWord w (hpast rest) ht
  · exact inv_engineTurn (hpast rest) ht
  · exact inv_applyReset (hpast rest)

/-- What every step keeps, a run keeps. -/
theorem inv_runSteps {s t : State} (n : Nat) (h : s.inv = true) (ht : runSteps n s = .next t) : t.inv = true := by
  induction n generalizing s with
  | zero => cases ht; exact h
  | succ n ih =>
    rw [runSteps] at ht
    split at ht
    · next u hu => exact ih (inv_step h hu) ht
    · cases ht
    · cases ht

end Sys2Proof.Machine
end

section
/-! SUPPORT. The sequencer view run to its end: each stage, the working-key loop, and then whole commands (R231, R246). -/

namespace Sys2Proof.Machine

/-! ### Runs of the engine alone -/

theorem engineRun_succ (n : Nat) (s t : State) (h : engineStep s = some t) : engineRun (n + 1) s = engineRun n t := by
  simp [engineRun, h]

theorem holdOrRaise_agenda (r : Except Err (List Byte)) (s : State) : (holdOrRaise r s).agenda = s.agenda := by
  cases r <;> rfl

theorem commandOperands_agenda (i : Instr) (s : State) : (commandOperands i s).agenda = s.agenda := by
  unfold commandOperands; split <;> rfl

/-- The engine does not touch what the outside world does next. -/
theorem engineStep_agenda (s t : State) (h : engineStep s = some t) : t.agenda = s.agenda := by
  obtain ⟨-, op, -, hstep⟩ := engineStep_cases s t h
  rcases hstep with ⟨-, h⟩ | ⟨-, h⟩ | ⟨-, h⟩ | ⟨-, h⟩ | ⟨-, h⟩ | ⟨-, h⟩ | ⟨-, rfl⟩
  · obtain ⟨r, -, rfl⟩ := stepExec_cases op s t h
    exact (holdOrRaise_agenda _ _).trans (commandOperands_agenda op s)
  · rcases stepIpek_cases op s t h with ⟨-, rfl⟩ | ⟨-, rfl⟩ <;> rfl
  · obtain ⟨-, rfl⟩ := stepWkInit_cases op s t h
    rfl
  · rcases stepWkIter_cases op s t h with ⟨-, rfl⟩ | ⟨-, -, rfl⟩ | ⟨-, -, rfl⟩ <;> exact counterBitStep_agenda s
  · rcases stepSession_cases op s t h with ⟨-, rfl⟩ | ⟨-, rfl⟩ <;> rfl
  · obtain ⟨-, rfl⟩ := stepTrack_cases op s t h
    exact holdOrRaise_agenda _ _
  · exact stepFinish_agenda s

/-- With nothing on the agenda the steps of the machine are the engine's (R321, log entry 3). -/
theorem runSteps_of_engineRun (n : Nat) (s t : State) (ha : s.agenda = []) (h : engineRun n s = some t) :
    runSteps n s = .next t := by
  induction n generalizing s with
  | zero => cases h; rfl
  | succ n ih =>
    rw [engineRun] at h
    split at h
    · next u hu =>
      have hturn : engineTurn s = .next u := by simp [engineTurn, (engineStep_cases s u hu).1, hu]
      rw [runSteps, step_nil s ha, hturn]
      exact ih u ((engineStep_agenda s u hu).trans ha) h
    · cases h

/-- With nothing on the agenda and nothing to do, the machine stays (R230). -/
theorem runSteps_idle (n : Nat) (s : State) (ha : s.agenda = []) (hb : s.busy = false) : runSteps n s = .next s := by
  induction n with
  | zero => rfl
  | succ n ih =>
    have hturn : engineTurn s = .next s := by simp [engineTurn, hb]
    rw [runSteps, step_nil s ha, hturn]
    exact ih

/-! ### The step of each stage, for a running command -/

section
variable {op : Instr} {s : State}

theorem Computing.engineStep_exec (h : Computing op s) (hst : s.stage = .exec) : engineStep s = stepExec op s := by
  simp [engineStep, h.busy, h.decodes, hst]

theorem Computing.engineStep_ipek (h : Computing op s) (hst : s.stage = .ipek) : engineStep s = stepIpek op s := by
  simp [engineStep, h.busy, h.decodes, hst]

theorem Computing.engineStep_wkInit (h : Computing op s) (hst : s.stage = .wkInit) :
    engineStep s = stepWkInit op s := by
  simp [engineStep, h.busy, h.decodes, hst]

theorem Computing.engineStep_wkIter (h : Computing op s) (hst : s.stage = .wkIter) :
    engineStep s = stepWkIter op s := by
  simp [engineStep, h.busy, h.decodes, hst]

theorem Computing.engineStep_session (h : Computing op s) (hst : s.stage = .session) :
    engineStep s = stepSession op s := by
  simp [engineStep, h.busy, h.decodes, hst]

theorem Computing.engineStep_track (h : Computing op s) (hst : s.stage = .track) : engineStep s = stepTrack op s := by
  simp [engineStep, h.busy, h.decodes, hst]

theorem Running.engineStep_finish (h : Running op s) (hst : s.stage = .finish) :
    engineStep s = some (stepFinish s) := by
  simp [engineStep, h.busy, h.decodes, hst]

end

/-! ### From each stage to the end of the command -/

section
variable {op : Instr} {s : State}

/-- `FINISH` ends the command as the functional view does (R244, R246). -/
theorem Computing.engineRun_finish (h : Computing op s) (hsr : s.sr = 0#21) (r : Except Err (List Byte))
    (hr : Publishable s.params r) : engineRun 1 (holdOrRaise r s) = some (conclude r (retire s)) := by
  have hrun := h.running_holdOrRaise hsr r hr
  have hst : (holdOrRaise r s).stage = .finish := by cases r <;> rfl
  rw [engineRun_succ 0 _ _ (hrun.engineStep_finish hst), engineRun]
  cases r with
  | ok b => exact congrArg some (stepFinish_eq_deliver _ hrun.quiet.sizes h.perr)
  | error e =>
    obtain rfl : e = cipherFailed 3#8 := hr
    exact congrArg some (stepFinish_eq_failAtStart _ _ rfl (by decide))

/-- `EXEC` and `FINISH` (R231, R233). -/
theorem Computing.engineRun_exec (h : Computing op s) (hsr : s.sr = 0#21) (hst : s.stage = .exec)
    (hop : firstStage op = .exec) :
    engineRun 2 s = some (conclude (commandResult op s) (retire (commandOperands op s))) := by
  have hstep : engineStep s = some (holdOrRaise (commandResult op s) (commandOperands op s)) := by
    rw [h.engineStep_exec hst, stepExec, execFunction_of_firstStage op s hop]
    rfl
  have hpub := publishable_commandResult op s h.quiet.sizes h.started
  rw [← commandOperands_params op s] at hpub
  rw [engineRun_succ 1 _ _ hstep]
  exact h.computing_commandOperands.engineRun_finish ((commandOperands_sr op s).trans hsr) _ hpub

/-- `SESSION` and `FINISH`, where the session key is the result (R239). -/
theorem Computing.engineRun_session (h : Computing op s) (hsr : s.sr = 0#21) (hst : s.stage = .session)
    (hop : op = .deriveSk ∨ op = .deriveKey) :
    engineRun 2 s = some (deliver (deriveSessionKey s.curkey) (retire s)) := by
  have hk := deriveSessionKey_length s.curkey
  have hne : op ≠ .decryptTrack := by rcases hop with rfl | rfl <;> decide
  have hstep : engineStep s =
      some (holdResult (deriveSessionKey s.curkey) { s with curkey := deriveSessionKey s.curkey }) := by
    rw [h.engineStep_session hst, stepSession, if_neg hne, if_pos hop]
  rw [engineRun_succ 1 _ _ hstep]
  exact (h.update _ hk s.ctr s.ksnr s.sr s.stage).engineRun_finish hsr (.ok _)
    (publishable_key _ h.quiet.sizes.params _ hk)

/-- `SESSION`, `TRACK` and `FINISH` of `DECRYPT_TRACK` (R239, R240). -/
theorem Computing.engineRun_track (h : Computing .decryptTrack s) (hsr : s.sr = 0#21) (hst : s.stage = .session) :
    engineRun 3 s = some
      (conclude (decrypt s.params.decUnpad .aes (deriveSessionKey s.curkey) (dataOperand s)) (retire s)) := by
  have hk := deriveSessionKey_length s.curkey
  have hsession : engineStep s = some { s with curkey := deriveSessionKey s.curkey, stage := .track } := by
    rw [h.engineStep_session hst, stepSession, if_pos rfl]
  have ht := h.update _ hk s.ctr s.ksnr s.sr .track
  have htrack : engineStep { s with curkey := deriveSessionKey s.curkey, stage := .track } = some
      (holdOrRaise (decrypt s.params.decUnpad .aes (deriveSessionKey s.curkey) (dataOperand s))
        { s with curkey := deriveSessionKey s.curkey, stage := .track }) := by
    rw [ht.engineStep_track rfl, stepTrack, if_pos rfl]
    rfl
  rw [engineRun_succ 2 _ _ hsession, engineRun_succ 1 _ _ htrack]
  exact ht.engineRun_finish hsr _ (publishable_decryptTrack s h.quiet.sizes h.started _ hk)

end

/-! ### The working-key loop (R210, R236 to R238) -/

/-- A one-bit value as a number. -/
theorem toNat_one_shiftLeft {w n : Nat} (h : n < w) : (1#w <<< n).toNat = 2 ^ n := by
  rw [← BitVec.twoPow_eq, BitVec.toNat_twoPow_of_lt h]

theorem one_shiftLeft_ne_zero {n : Nat} (hn : n < 21) : 1#21 <<< n ≠ 0#21 := by
  intro h
  have hz := toNat_one_shiftLeft hn
  rw [h] at hz
  exact absurd hz (Nat.two_pow_pos n).ne

/-- `SR = 2^n` selects bit `n` of the counter. -/
theorem and_shift_ne_zero_iff (ctr : BitVec 21) {n : Nat} (hn : n < 21) :
    1#21 <<< n &&& ctr ≠ 0#21 ↔ ctr.getLsbD n = true := by
  have hne := one_shiftLeft_ne_zero hn
  rw [← BitVec.twoPow_eq] at hne ⊢
  rw [BitVec.twoPow_and]
  cases ctr.getLsbD n <;> simp [hne]

/-- Bit `n` of `SR` is bit `n` of `KSNR` (R236). -/
theorem setWidth_one_shiftLeft {n : Nat} (hn : n < 21) : (1#21 <<< n).setWidth 64 = 1#64 <<< n := by
  apply BitVec.eq_of_toNat_eq
  rw [BitVec.toNat_setWidth, toNat_one_shiftLeft hn, toNat_one_shiftLeft (by omega)]
  exact Nat.mod_eq_of_lt (Nat.pow_lt_pow_right (by decide) (by omega))

/-- The shift of R238 moves `SR` to the next lower bit. -/
theorem one_shiftLeft_shiftRight {n : Nat} (hn : n + 1 < 21) : (1#21 <<< (n + 1)) >>> 1 = 1#21 <<< n := by
  apply BitVec.eq_of_toNat_eq
  rw [BitVec.toNat_ushiftRight, toNat_one_shiftLeft hn, toNat_one_shiftLeft (by omega), Nat.shiftRight_one, pow_succ,
    Nat.mul_div_cancel _ (by decide)]

/-- One `WK_ITER` step computes what one position of the loop of R210 computes. -/
theorem workingKeyLoop_counterBitStep (s : State) (n : Nat) (hn : n < 21) (hsr : s.sr = 1#21 <<< n) :
    workingKeyLoop s.ctr (n + 1) s.ksnr s.curkey =
      workingKeyLoop s.ctr n (counterBitStep s).ksnr (counterBitStep s).curkey := by
  rw [counterBitStep_ksnr, counterBitStep_curkey, hsr, setWidth_one_shiftLeft hn]
  simp only [and_shift_ne_zero_iff s.ctr hn]
  cases hbit : s.ctr.getLsbD n with
  | true => rw [workingKeyLoop_set _ _ _ _ hbit, if_pos rfl, if_pos rfl]
  | false => rw [workingKeyLoop_clear _ _ _ _ hbit, if_neg (by decide), if_neg (by decide)]

/-- The exit of the loop (R238): `DERIVE_WK` holds the working key as its result, the others go on to `SESSION`. -/
def leaveLoop (op : Instr) (s : State) : State :=
  if op = .deriveWk then holdResult s.curkey s else { s with stage := .session }

theorem stepWkIter_next (op : Instr) (s : State) (h : s.sr >>> 1 ≠ 0#21) :
    stepWkIter op s = some { counterBitStep s with sr := s.sr >>> 1 } := by
  simp [stepWkIter, shiftStep, h]

theorem stepWkIter_last (op : Instr) (s : State) (hop : op = .deriveWk ∨ op = .deriveKey ∨ op = .decryptTrack)
    (h : s.sr >>> 1 = 0#21) :
    stepWkIter op s = some (leaveLoop op { counterBitStep s with sr := 0#21 }) := by
  rcases hop with rfl | rfl | rfl <;> simp [stepWkIter, shiftStep, leaveLoop, h]

/-- The loop from `SR = 2^n` on leaves with the key that R210 computes over the positions `n` to 0. -/
theorem Computing.engineRun_loop {op : Instr} {s : State} (h : Computing op s)
    (hop : op = .deriveWk ∨ op = .deriveKey ∨ op = .decryptTrack) (hst : s.stage = .wkIter) (m n : Nat) (hn : n < 21)
    (hsr : s.sr = 1#21 <<< n) :
    ∃ k, engineRun (n + 1 + m) s = engineRun m (leaveLoop op
      { s with sr := 0#21, ksnr := k, curkey := workingKeyLoop s.ctr (n + 1) s.ksnr s.curkey }) := by
  induction n generalizing s with
  | zero =>
    refine ⟨(counterBitStep s).ksnr, ?_⟩
    have hstep := h.engineStep_wkIter hst
    rw [stepWkIter_last op s hop (by rw [hsr]; decide), counterBitStep_eq s] at hstep
    rw [show 0 + 1 + m = m + 1 by omega, engineRun_succ m _ _ hstep, workingKeyLoop_counterBitStep s 0 hn hsr]
    rfl
  | succ n ih =>
    have hshift : s.sr >>> 1 = 1#21 <<< n := by rw [hsr, one_shiftLeft_shiftRight hn]
    have hne : s.sr >>> 1 ≠ 0#21 := hshift ▸ one_shiftLeft_ne_zero (by omega)
    have hstep := h.engineStep_wkIter hst
    rw [stepWkIter_next op s hne, counterBitStep_eq s] at hstep
    have hk := counterBitStep_curkey_length s h.quiet.sizes.curkey
    obtain ⟨k, hrun⟩ := ih (h.update _ hk s.ctr (counterBitStep s).ksnr (s.sr >>> 1) s.stage) hst (by omega) hshift
    refine ⟨k, ?_⟩
    rw [show n + 1 + 1 + m = n + 1 + m + 1 by omega, engineRun_succ _ _ _ hstep,
      workingKeyLoop_counterBitStep s (n + 1) hn hsr]
    exact hrun

theorem srInit_eq : srInit = 1#21 <<< 20 := by decide

/-- `WK_INIT` and the 21 steps of the loop leave with the working key of R210. -/
theorem Computing.engineRun_wkInit {op : Instr} {s : State} (h : Computing op s)
    (hop : op = .deriveWk ∨ op = .deriveKey ∨ op = .decryptTrack) (hst : s.stage = .wkInit) (m : Nat) :
    ∃ k, engineRun (22 + m) s = engineRun m (leaveLoop op
      { s with
        ctr := counterOf s.ksn, ksnr := k, sr := 0#21, stage := .wkIter
        curkey := deriveWorkingKey s.ksn s.curkey }) := by
  have hstep := h.engineStep_wkInit hst
  rw [stepWkInit, if_pos hop] at hstep
  obtain ⟨k, hrun⟩ := (h.update _ h.quiet.sizes.curkey (counterOf s.ksn) (BitVec.ofNat 64 (val (baseKSN s.ksn))) srInit
    .wkIter).engineRun_loop hop rfl m 20 (by decide) srInit_eq
  refine ⟨k, ?_⟩
  rw [show 22 + m = 20 + 1 + m + 1 by omega, engineRun_succ _ _ _ hstep]
  exact hrun

/-- `DERIVE_WK` from `WK_INIT` (R231). -/
theorem Computing.engineRun_deriveWk {s : State} (h : Computing .deriveWk s) (hst : s.stage = .wkInit) :
    engineRun 23 s = some (deliver (deriveWorkingKey s.ksn s.curkey) (retire s)) := by
  obtain ⟨k, hrun⟩ := h.engineRun_wkInit (.inl rfl) hst 1
  have hk := deriveWorkingKey_length s.ksn s.curkey h.quiet.sizes.curkey
  rw [hrun, leaveLoop, if_pos rfl]
  exact (h.update _ hk (counterOf s.ksn) k 0#21 .wkIter).engineRun_finish rfl (.ok _)
    (publishable_key _ h.quiet.sizes.params _ hk)

/-- `DERIVE_KEY` from `WK_INIT` (R231). -/
theorem Computing.engineRun_deriveKey {s : State} (h : Computing .deriveKey s) (hst : s.stage = .wkInit) :
    engineRun 24 s = some (deliver (deriveSessionKey (deriveWorkingKey s.ksn s.curkey)) (retire s)) := by
  obtain ⟨k, hrun⟩ := h.engineRun_wkInit (.inr (.inl rfl)) hst 2
  have hk := deriveWorkingKey_length s.ksn s.curkey h.quiet.sizes.curkey
  rw [hrun, leaveLoop, if_neg (by decide)]
  exact (h.update _ hk (counterOf s.ksn) k 0#21 .session).engineRun_session rfl rfl (.inr rfl)

/-- `DECRYPT_TRACK` from `WK_INIT` (R231). -/
theorem Computing.engineRun_decryptTrack {s : State} (h : Computing .decryptTrack s) (hst : s.stage = .wkInit) :
    engineRun 25 s = some (conclude (decrypt s.params.decUnpad .aes
      (deriveSessionKey (deriveWorkingKey s.ksn s.curkey)) (dataOperand s)) (retire s)) := by
  obtain ⟨k, hrun⟩ := h.engineRun_wkInit (.inr (.inr rfl)) hst 3
  have hk := deriveWorkingKey_length s.ksn s.curkey h.quiet.sizes.curkey
  rw [hrun, leaveLoop, if_neg (by decide)]
  exact (h.update _ hk (counterOf s.ksn) k 0#21 .session).engineRun_track rfl rfl

/-! ### The whole command -/

section
variable {s : State}

/-- `DERIVE_IPEK` whole: `IPEK` and `FINISH` (R231, R234). -/
theorem Computing.engineRun_deriveIpek (h : Computing .deriveIpek s) (hsr : s.sr = 0#21) (hst : s.stage = .ipek) :
    engineRun 2 s = some (deliver (deriveIPEK (keyOperand s) s.ksn) (retire s)) := by
  have hk := deriveIPEK_length (keyOperand s) s.ksn
  have hstep := h.engineStep_ipek hst
  rw [stepIpek, if_pos rfl] at hstep
  rw [engineRun_succ 1 _ _ hstep]
  exact (h.update _ hk s.ctr s.ksnr s.sr s.stage).engineRun_finish hsr (.ok _)
    (publishable_key _ h.quiet.sizes.params _ hk)

/-- `IPEK` hands the initial key to the working-key derivation (R234). -/
theorem Computing.engineRun_ipek {op : Instr} (h : Computing op s) (hst : s.stage = .ipek)
    (hop : op = .deriveKey ∨ op = .decryptTrack) (n : Nat) :
    engineRun (n + 1) s =
      engineRun n { s with curkey := deriveIPEK (keyOperand s) s.ksn, stage := .wkInit } := by
  have hne : op ≠ .deriveIpek := by rcases hop with rfl | rfl <;> decide
  have hstep := h.engineStep_ipek hst
  rw [stepIpek, if_neg hne, if_pos hop] at hstep
  exact engineRun_succ n _ _ hstep

end

theorem retire_commandOperands (i : Instr) (s : State) :
    retire (commandOperands i s) = commandOperands i (retire s) := by
  unfold commandOperands; split <;> rfl

/-- No command's function reads a register that steps 8 to 10 of R94 set. -/
theorem commandResult_acceptCommand (i : Instr) (s : State) :
    commandResult i (acceptCommand i s) = commandResult i s := by
  cases i <;> rfl

/-- The engine, left alone, brings a started command to the state its functional view gives (R246). -/
theorem Begun.engineRun_acceptCommand {s : State} (h : Begun s) (i : Instr) (hd : decode s.cmd = .ok i)
    (he : startError i s = none) :
    engineRun (engineSteps i) (acceptCommand i s) =
      some (conclude (commandResult i s) (commandOperands i s)) := by
  have hc := h.computing_acceptCommand hd he
  have hsr : (acceptCommand i s).sr = 0#21 := h.rest.sr
  have hret : retire (acceptCommand i s) = s := h.rest.retire_eq
  have hk := deriveIPEK_length (keyOperand s) s.ksn
  by_cases hx : firstStage i = .exec
  · have hsteps : engineSteps i = 2 := by cases i <;> simp_all [firstStage, engineSteps]
    rw [hsteps, hc.engineRun_exec hsr hx hx, retire_commandOperands, hret, commandResult_acceptCommand]
  · cases i
    case deriveIpek => exact (hc.engineRun_deriveIpek hsr rfl).trans (by rw [hret]; rfl)
    case deriveWk => exact (hc.engineRun_deriveWk rfl).trans (by rw [hret]; rfl)
    case deriveSk => exact (hc.engineRun_session hsr rfl (.inl rfl)).trans (by rw [hret]; rfl)
    case deriveKey =>
      have hw := hc.update _ hk s.ctr s.ksnr s.sr .wkInit
      exact ((hc.engineRun_ipek rfl (.inl rfl) 24).trans (hw.engineRun_deriveKey rfl)).trans
        (congrArg (fun t => some (deliver (deriveKey (keyOperand s) s.ksn) t)) hret)
    case decryptTrack =>
      have hw := hc.update _ hk s.ctr s.ksnr s.sr .wkInit
      exact ((hc.engineRun_ipek rfl (.inr rfl) 25).trans (hw.engineRun_decryptTrack rfl)).trans
        (congrArg (fun t => some (conclude (trackResult s) t)) hret)
    all_goals exact absurd rfl hx

/-- A `CMD` write to an idle block is the start sequence of R94. -/
theorem step_cmdWrite (s : State) (w : Word) (rest : List Event) (hb : s.busy = false) :
    step { s with agenda := .write 4 0x000 w :: rest } = .next (startCommand w { s with agenda := rest }) := by
  rw [step_cons _ _ rest rfl, perform, hostWrite, (admit_eq_ok 4 0x000 .cmd).2 ⟨rfl, rfl, rfl⟩]
  simp [writeValue, hb]

/-- R246: the start sequence and as many engine turns as the command has give what the functional view gives. -/
theorem Idle.runSteps_startCommand {s : State} (h : Idle s) (ha : s.agenda = []) (i : Instr) :
    runSteps (engineSteps i) (startCommand (encode i) s) = exec i s := by
  have hb := h.rest.busy
  rw [exec_eq_runCommand]
  rcases startCommand_cases (encode i) s with ⟨r, hd, -⟩ | ⟨j, e, hd, he, hs⟩ | ⟨j, hd, he, hs⟩ <;>
    rw [decode_encode] at hd <;> cases hd <;> rw [hs]
  · rw [runCommand_failed i _ s e hb he]
    exact runSteps_idle _ _ ha hb
  · rw [runCommand_started i _ s hb he]
    exact runSteps_of_engineRun _ _ _ ha ((begun_beginCommand _ h).engineRun_acceptCommand i (decode_encode i) he)

end Sys2Proof.Machine
end

section
/-! The statements of the scope family: O4, O40, O44. -/

open Sys2Proof Sys2Proof.Machine

/-- Settles O4: the agenda's head is what the step performs, and a 32-bit word survives `withFetchWord`. -/
theorem stepRunsDecodedCommand : Obligations.StepRunsDecodedCommand := by
  intro s w i rest hd
  have hrun : ∀ t, runWord w t = exec i t := fun t => by simp only [runWord, hd]
  constructor
  · intro ha
    rw [step_cons s _ rest ha]
    exact hrun _
  · have hw : BitVec.ofNat 32 (w.toNat % 2 ^ 32) = w := by
      rw [Nat.mod_eq_of_lt w.isLt, BitVec.ofNat_toNat, BitVec.setWidth_eq]
    rw [step_cons _ _ s.agenda (by rw [withFetchWord_agenda, hw])]
    exact hrun s

/-- Settles O44: the invariant holds at reset, every step of a run keeps it, and it says each clause of R245. -/
theorem reachableStates : Obligations.ReachableStates := by
  intro p es n s hp hrun
  have hinv : s.inv = true := inv_runSteps (s := { State.resetOf p with agenda := es }) n (inv_resetOf p hp) hrun
  cases hb : s.busy with
  | false =>
    obtain ⟨-, hrest, hfailed, hok, -⟩ := (inv_iff_idle s hb).1 hinv
    refine ⟨by simp [hrest.stage], fun h => absurd hrest.sr h, nofun,
      fun _ => ⟨hrest.ctr, hrest.ksnr, hrest.curkey, hrest.res, hrest.perr⟩,
      fun he => ?_, hok, .inl hrest.perr⟩
    obtain ⟨hdone, hcode, holen, -⟩ := hfailed he
    exact ⟨hdone, holen, hcode⟩
  | true =>
    obtain ⟨op, hr⟩ := (inv_iff_running s hb).1 hinv
    obtain ⟨-, hdone, herr, hcode, holen, hdout⟩ := hr.quiet
    refine ⟨?_, fun hsr => ?_, fun _ => ⟨hdone, herr, hcode, holen, fun b hmem => ?_⟩, nofun, fun he => ?_,
      fun _ => hcode, ?_⟩
    · simpa using hr.stage_ne_idle
    · by_contra hne
      exact hsr (by simpa [hne] using hr.loop)
    · rw [hdout] at hmem
      exact List.eq_of_mem_replicate hmem
    · simp [herr] at he
    · exact hr.pending.imp_right fun ⟨hperr, _⟩ => ⟨hperr, hr.stage_of_perr (by rw [hperr]; decide)⟩

/-- Settles O40: a failing start ends at once in both views; a start that passes is run by the engine, stage by stage, to
the state in which the functional view concludes. -/
theorem viewsAgree : Obligations.ViewsAgree := by
  intro s i hinv hb
  have hidle := (inv_iff_idle { s with agenda := [] } hb).1 hinv
  rw [Nat.add_comm, runSteps, step_cmdWrite s (encode i) [] hb]
  exact hidle.runSteps_startCommand rfl i

end

section
/-! SUPPORT. The register map read backwards, from a register to its address (R62), and what reading and writing one
register does (R64, R66, R67). -/

namespace Sys2Proof.Machine

/-! ### The address of a register (R62) -/

/-- The offset of an array register lies in the range R62 maps for it. -/
def InMap : MapReg → Prop
  | .key off => off < 0x18
  | .ksn off => off < 0x0C
  | .iv off => off < 0x08
  | .din off => off < 0x400
  | .dout off => off < 0x410
  | _ => True

/-- `mapAddr` finds at an address exactly the register whose address it is: the ranges of R62 do not overlap. -/
theorem mapAddr_eq_some (a : Nat) (r : MapReg) : mapAddr a = some r ↔ InMap r ∧ regAddr r = a := by
  simp only [mapAddr, ite_eq_iff, Option.some.injEq, reduceCtorEq, and_false, or_false]
  cases r <;>
    simp only [InMap, regAddr, MapReg.key.injEq, MapReg.ksn.injEq, MapReg.iv.injEq, MapReg.din.injEq,
      MapReg.dout.injEq, reduceCtorEq, and_true, and_false, true_and, or_false, false_or] <;>
    omega

/-- An aligned word of the map is admitted at its address (R61, R68). -/
theorem admittedReg_regAddr {r : MapReg} (hr : InMap r) (hal : regAddr r % 4 = 0) :
    admittedReg 4 (regAddr r) = .ok r :=
  (admit_eq_ok 4 _ r).2 ⟨rfl, hal, (mapAddr_eq_some _ r).2 ⟨hr, rfl⟩⟩

section
variable {k : Nat}

theorem admittedReg_key (hk : k < 6) : admittedReg 4 (0x020 + 4 * k) = .ok (.key (4 * k)) :=
  admittedReg_regAddr (r := .key (4 * k)) (by simp only [InMap]; omega) (by simp only [regAddr]; omega)

theorem admittedReg_ksn (hk : k < 3) : admittedReg 4 (0x040 + 4 * k) = .ok (.ksn (4 * k)) :=
  admittedReg_regAddr (r := .ksn (4 * k)) (by simp only [InMap]; omega) (by simp only [regAddr]; omega)

theorem admittedReg_iv (hk : k < 2) : admittedReg 4 (0x050 + 4 * k) = .ok (.iv (4 * k)) :=
  admittedReg_regAddr (r := .iv (4 * k)) (by simp only [InMap]; omega) (by simp only [regAddr]; omega)

theorem admittedReg_din (hk : k < 256) : admittedReg 4 (0x400 + 4 * k) = .ok (.din (4 * k)) :=
  admittedReg_regAddr (r := .din (4 * k)) (by simp only [InMap]; omega) (by simp only [regAddr]; omega)

theorem admittedReg_dout (hk : k < 260) : admittedReg 4 (0x800 + 4 * k) = .ok (.dout (4 * k)) :=
  admittedReg_regAddr (r := .dout (4 * k)) (by simp only [InMap]; omega) (by simp only [regAddr]; omega)

end

/-! ### Reading a register (R66, R67) -/

theorem readValue_idle {s : State} (hb : s.busy = false) (r : MapReg) : readValue s r = regWord s r := by
  simp [readValue, hb]

/-- R67: a read while idle gives the host the register's value. -/
theorem hostRead_idle {s : State} (hb : s.busy = false) {addr : Nat} {r : MapReg} (hadm : admittedReg 4 addr = .ok r) :
    hostRead 4 addr s = .next { s with returned := s.returned ++ [(addr, regWord s r)] } := by
  simp only [hostRead, hadm, readValue_idle hb]

/-- R30: `STATUS` while idle. -/
theorem statusWord_idle {s : State} (hb : s.busy = false) :
    statusWord s = BitVec.ofNat 32 (2 * s.done.toNat + 4 * s.err.toNat) := by
  rw [statusWord, hb]
  cases s.done <;> cases s.err <;> rfl

/-- R66: while `BUSY = 1` a read sees only `CMD`, `STATUS`, `STAGE` and `SR`. -/
theorem readValue_busy {s : State} (hb : s.busy = true) (r : MapReg) :
    readValue s r = if readableWhileBusy r = true then regWord s r else 0#32 := by
  cases h : readableWhileBusy r <;> simp [readValue, hb, h]

/-- R30, R247: `STATUS` while a command runs. -/
theorem Running.statusWord_eq {op : Instr} {s : State} (h : Running op s) : statusWord s = 0x00000001#32 := by
  rw [statusWord, h.busy, h.quiet.done, h.quiet.err]
  rfl

/-- R66: what a read of the mapped word `r` returns while a command runs, by its address. -/
theorem Running.readValue_eq {op : Instr} {s : State} (h : Running op s) (r : MapReg) :
    readValue s r =
      if regAddr r = 0x000 then s.cmd
      else if regAddr r = 0x004 then 0x00000001#32
      else if regAddr r = 0x018 then (stageCode s.stage).setWidth 32
      else if regAddr r = 0x01C then s.sr.setWidth 32
      else 0#32 := by
  rw [readValue_busy h.busy]
  cases r
  case status => exact h.statusWord_eq
  case key off | ksn off | iv off | din off | dout off =>
    rw [if_neg (by simp [readableWhileBusy])]
    repeat rw [if_neg (by simp only [regAddr]; omega)]
  all_goals rfl

/-- R22: a `KEY` word reads zero at all times. -/
theorem readValue_key (s : State) (off : Nat) : readValue s (.key off) = 0#32 := by
  unfold readValue
  split <;> rfl

/-! ### Writing a register (R66, R67) -/

theorem writeValue_idle {s : State} (hb : s.busy = false) {r : MapReg} (hr : r ≠ .cmd) (v : Word) :
    writeValue r v s = storeReg r v s := by
  rcases writeValue_cases r v s with ⟨hbusy, -⟩ | ⟨-, hcmd, -⟩ | ⟨-, -, heq⟩
  · simp [hb] at hbusy
  · exact absurd hcmd hr
  · exact heq

theorem writeValue_busy {s : State} (hb : s.busy = true) (r : MapReg) (v : Word) : writeValue r v s = s := by
  simp [writeValue, hb]

/-- R67: a write while idle to a register other than `CMD` stores. -/
theorem hostWrite_idle {s : State} (hb : s.busy = false) {addr : Nat} {r : MapReg} (hadm : admittedReg 4 addr = .ok r)
    (hne : r ≠ .cmd) (v : Word) : hostWrite 4 addr v s = .next (storeReg r v s) := by
  simp only [hostWrite, hadm, writeValue_idle hb hne]

/-- R66, R67: a write to a register that stores nothing is ignored, busy or idle. -/
theorem hostWrite_readOnly {addr : Nat} {r : MapReg} {v : Word} {s : State} (hadm : admittedReg 4 addr = .ok r)
    (hne : r ≠ .cmd) (hro : storeReg r v s = s) : hostWrite 4 addr v s = .next s := by
  cases hb : s.busy with
  | true => simp only [hostWrite, hadm, writeValue_busy hb]
  | false => rw [hostWrite_idle hb hadm hne, hro]

/-- What a register shows after a write of it while idle (R67). -/
theorem readValue_writeValue {s : State} (hb : s.busy = false) {r : MapReg} (hne : r ≠ .cmd) (v : Word) :
    readValue (writeValue r v s) r = regWord (storeReg r v s) r := by
  rw [writeValue_idle hb hne, readValue_idle ((storeReg_busy r v s).trans hb)]

/-! ### The words of an array at and beyond its end (R64) -/

/-- The low bits of a word, kept by a narrow register and shown again (R62). -/
theorem setWidth_setWidth_eq_and (v : Word) (n : Nat) (hn : n ≤ 32) :
    (v.setWidth n).setWidth 32 = v &&& BitVec.ofNat 32 (2 ^ n - 1) := by
  apply BitVec.eq_of_toNat_eq
  have hlt : 2 ^ n - 1 < 2 ^ 32 := by
    have := Nat.pow_le_pow_right (n := 2) (by decide) hn
    omega
  rw [BitVec.toNat_and, BitVec.toNat_ofNat, Nat.mod_eq_of_lt hlt, Nat.and_two_pow_sub_one_eq_mod,
    BitVec.toNat_setWidth, BitVec.toNat_setWidth, Nat.mod_eq_of_lt]
  exact (Nat.mod_le _ _).trans_lt v.isLt

/-- R64: bytes beyond the end of the array read as zero. -/
theorem readWord_beyond (arr : List Byte) (off : Nat) (h : arr.length ≤ off) : readWord arr off = 0#32 := by
  have hz : ∀ j, arr.getD (off + j) 0#8 = 0#8 := fun j => List.getD_eq_default _ _ (by omega)
  have h0 : arr.getD off 0#8 = 0#8 := hz 0
  rw [readWord, h0, hz, hz, hz]
  rfl

theorem readWord_zeros (n off : Nat) : readWord (zeros n) off = 0#32 := by
  have hz : ∀ j, (zeros n).getD j 0#8 = 0#8 := fun j => by simp [zeros]
  rw [readWord, hz, hz, hz, hz]
  rfl

/-- R64: of a word that the array's end cuts in two, the upper half is stored and reads back. -/
theorem readWord_writeWord_half (arr : List Byte) (off : Nat) (v : Word) (h : arr.length = off + 2) :
    readWord (writeWord arr off v) off = v &&& 0xFFFF0000#32 := by
  have h0 : (writeWord arr off v).getD off 0#8 = v.extractLsb' 24 8 := by
    simp only [writeWord, List.getD_eq_getElem?_getD, List.getElem?_set, List.length_set]; grind
  have h1 : (writeWord arr off v).getD (off + 1) 0#8 = v.extractLsb' 16 8 := by
    simp only [writeWord, List.getD_eq_getElem?_getD, List.getElem?_set, List.length_set]; grind
  have hend : ∀ j, off + 2 ≤ j → (writeWord arr off v).getD j 0#8 = 0#8 := fun j hj =>
    List.getD_eq_default _ _ (by rw [writeWord_length]; omega)
  have hmask : ∀ i < 32, (0xFFFF0000#32).getLsbD i = decide (16 ≤ i) := by decide
  rw [readWord, h0, h1, hend _ (by omega), hend _ (by omega)]
  apply BitVec.eq_of_getLsbD_eq
  intro i hi
  simp only [BitVec.getLsbD_append, BitVec.getLsbD_extractLsb', BitVec.getLsbD_and, hmask i hi, BitVec.getLsbD_zero]
  grind

end Sys2Proof.Machine
end

section
/-! SUPPORT. What the commands and the engine leave unchanged (R318), and what a command's end depends on (R95). -/

namespace Sys2Proof.Machine

/-! ### The operand registers across a step (R20, R318) -/

/-- `t` has the operand registers of `s` (R21 to R26) and its parameters (R20). -/
structure SameOperands (s t : State) : Prop where
  key : t.key = s.key
  klen : t.klen = s.klen
  ksn : t.ksn = s.ksn
  iv : t.iv = s.iv
  din : t.din = s.din
  dlen : t.dlen = s.dlen
  params : t.params = s.params

theorem SameOperands.refl (s : State) : SameOperands s s := ⟨rfl, rfl, rfl, rfl, rfl, rfl, rfl⟩

theorem commandOperands_of_ne_clear {i : Instr} (h : i ≠ .clear) (s : State) : commandOperands i s = s := if_neg h

theorem sameOperands_conclude (r : Except Err (List Byte)) (s : State) : SameOperands s (conclude r s) := by
  cases r <;> exact ⟨rfl, rfl, rfl, rfl, rfl, rfl, rfl⟩

theorem sameOperands_holdOrRaise (r : Except Err (List Byte)) (s : State) : SameOperands s (holdOrRaise r s) := by
  cases r <;> exact ⟨rfl, rfl, rfl, rfl, rfl, rfl, rfl⟩

theorem sameOperands_counterBitStep (s : State) : SameOperands s (counterBitStep s) := by
  constructor <;> simp

theorem sameOperands_stepWkIter {op : Instr} {s t : State} (h : stepWkIter op s = some t) : SameOperands s t := by
  obtain ⟨hkey, hklen, hksn, hiv, hdin, hdlen, hparams⟩ := sameOperands_counterBitStep s
  rcases stepWkIter_cases op s t h with ⟨-, rfl⟩ | ⟨-, -, rfl⟩ | ⟨-, -, rfl⟩ <;>
    exact ⟨hkey, hklen, hksn, hiv, hdin, hdlen, hparams⟩

theorem sameOperands_stepFinish (s : State) : SameOperands s (stepFinish s) := by
  constructor <;> simp

/-- An engine step keeps the operands, but for the `EXEC` step of `CLEAR`, which zeroises them (R232, R318). -/
theorem engineStep_operands {s t : State} {op : Instr} (hd : decode s.cmd = .ok op) (h : engineStep s = some t) :
    SameOperands s t ∨ SameOperands (commandOperands op s) t := by
  obtain ⟨-, op', hd', hstep⟩ := engineStep_cases s t h
  obtain rfl : op' = op := by simpa [hd] using hd'.symm
  rcases hstep with ⟨-, h⟩ | ⟨-, h⟩ | ⟨-, h⟩ | ⟨-, h⟩ | ⟨-, h⟩ | ⟨-, h⟩ | ⟨-, rfl⟩
  · obtain ⟨r, -, rfl⟩ := stepExec_cases op' s t h
    exact .inr (sameOperands_holdOrRaise r _)
  · rcases stepIpek_cases op' s t h with ⟨-, rfl⟩ | ⟨-, rfl⟩ <;> exact .inl ⟨rfl, rfl, rfl, rfl, rfl, rfl, rfl⟩
  · obtain ⟨-, rfl⟩ := stepWkInit_cases op' s t h
    exact .inl ⟨rfl, rfl, rfl, rfl, rfl, rfl, rfl⟩
  · exact .inl (sameOperands_stepWkIter h)
  · rcases stepSession_cases op' s t h with ⟨-, rfl⟩ | ⟨-, rfl⟩ <;> exact .inl ⟨rfl, rfl, rfl, rfl, rfl, rfl, rfl⟩
  · obtain ⟨-, rfl⟩ := stepTrack_cases op' s t h
    exact .inl (sameOperands_holdOrRaise _ s)
  · exact .inl (sameOperands_stepFinish s)

/-- A command in the functional view keeps the operands, but for a `CLEAR` that starts (R271, R318). -/
theorem exec_operands {s t : State} (i : Instr) (h : exec i s = .next t) :
    SameOperands s t ∨ SameOperands (commandOperands i (beginCommand (encode i) s)) t := by
  rw [exec_eq_runCommand] at h
  rcases runCommand_cases i _ s _ h with ⟨-, ho⟩ | ⟨e, -, -, ho⟩ | ⟨-, -, ho⟩ <;> cases ho
  · exact .inl (.refl s)
  · exact .inl ⟨rfl, rfl, rfl, rfl, rfl, rfl, rfl⟩
  · exact .inr (sameOperands_conclude _ _)

/-! ### The parameters across a step (R20) -/

theorem engineStep_params {s t : State} (h : engineStep s = some t) : t.params = s.params := by
  obtain ⟨-, op, hd, -⟩ := engineStep_cases s t h
  rcases engineStep_operands hd h with hs | hs
  · exact hs.params
  · exact hs.params.trans (commandOperands_params op s)

theorem engineTurn_params {s t : State} (h : engineTurn s = .next t) : t.params = s.params := by
  rcases engineTurn_cases s with ⟨-, hn⟩ | ⟨-, u, hu, hn⟩ | ⟨-, -, hn⟩ <;> rw [hn] at h <;> cases h
  · rfl
  · exact engineStep_params hu

theorem startCommand_params (w : Word) (s : State) : (startCommand w s).params = s.params := by
  rcases startCommand_cases w s with ⟨-, -, heq⟩ | ⟨i, e, -, -, heq⟩ | ⟨i, -, -, heq⟩ <;> rw [heq] <;> rfl

theorem storeReg_params (r : MapReg) (v : Word) (s : State) : (storeReg r v s).params = s.params := by
  cases r <;> rfl

theorem writeValue_params (r : MapReg) (v : Word) (s : State) : (writeValue r v s).params = s.params := by
  rcases writeValue_cases r v s with ⟨-, heq⟩ | ⟨-, -, heq⟩ | ⟨-, -, heq⟩ <;> rw [heq]
  · exact startCommand_params v s
  · exact storeReg_params r v s

theorem exec_params {s t : State} (i : Instr) (h : exec i s = .next t) : t.params = s.params := by
  rcases exec_operands i h with hs | hs
  · exact hs.params
  · exact hs.params.trans (commandOperands_params i _)

theorem runWord_params {s t : State} (w : Word) (h : runWord w s = .next t) : t.params = s.params := by
  unfold runWord at h
  split at h
  · exact exec_params _ h
  · cases h
    unfold startIllegal
    split <;> rfl

/-- R20: the parameters are not state, and no step changes them. -/
theorem step_params {s t : State} (h : step s = .next t) : t.params = s.params := by
  rcases step_next_cases s t h with ⟨-, h⟩ | ⟨_, _, _, _, -, -, rfl⟩ | ⟨_, _, v, rest, r, -, -, rfl⟩ |
    ⟨w, _, -, h⟩ | ⟨_, -, h⟩ | ⟨_, -, rfl⟩
  · exact engineTurn_params h
  · rfl
  · exact writeValue_params r v _
  · exact (runWord_params w h :)
  · exact (engineTurn_params h :)
  · rfl

/-! ### What a command's result depends on (R95) -/

/-- Two states give a command the same operands (R95) under the same parameters (R8). -/
structure AgreeOn (i : Instr) (s1 s2 : State) : Prop where
  params : s1.params = s2.params
  key : readsKey i = true → s1.klen = s2.klen ∧ keyOperand s1 = keyOperand s2
  din : readsDin i = true → s1.dlen = s2.dlen ∧ dataOperand s1 = dataOperand s2
  ksn : readsKsn i = true → s1.ksn = s2.ksn

/-- A command that does not read `KEY` accepts every `KLEN` (R96). -/
theorem legalKlen_of_not_readsKey {i : Instr} (h : readsKey i = false) (n : Nat) : legalKlen i n = true := by
  cases i <;> simp_all [readsKey, legalKlen]

/-- A command that does not read `DIN` accepts every `DLEN` (R96). -/
theorem legalDlen_of_not_readsDin {i : Instr} (h : readsDin i = false) (m n : Nat) : legalDlen m i n = true := by
  cases i <;> simp_all [readsDin, legalDlen]

/-- The start checks of R94 read only the lengths of the operands the command reads. -/
theorem AgreeOn.startError_eq {i : Instr} {s1 s2 : State} (h : AgreeOn i s1 s2) :
    startError i s1 = startError i s2 := by
  have hk : (readsKey i && decide (24 < s1.klen.toNat)) = (readsKey i && decide (24 < s2.klen.toNat)) ∧
      legalKlen i s1.klen.toNat = legalKlen i s2.klen.toNat := by
    cases hr : readsKey i with
    | true => simp [(h.key hr).1]
    | false => simp [legalKlen_of_not_readsKey hr]
  have hd : (readsDin i && decide (s1.params.dataMax < s1.dlen.toNat)) =
        (readsDin i && decide (s2.params.dataMax < s2.dlen.toNat)) ∧
      legalDlen s1.params.dataMax i s1.dlen.toNat = legalDlen s2.params.dataMax i s2.dlen.toNat := by
    rw [h.params]
    cases hr : readsDin i with
    | true => simp [(h.din hr).1]
    | false => simp [legalDlen_of_not_readsDin hr]
  simp only [startError, hk, hd]

/-- `DERIVE_WK` and `DERIVE_SK` start only with `KLEN = 16`, so `KEY[0..15]` is the whole key operand (R96). -/
theorem take_key_eq_keyOperand {i : Instr} {s : State} (hi : i = .deriveWk ∨ i = .deriveSk)
    (h : startError i s = none) : s.key.take 16 = keyOperand s := by
  have hk := (startError_none_legal i s h).1
  have h16 : s.klen.toNat = 16 := by rcases hi with rfl | rfl <;> simpa [legalKlen] using hk
  rw [keyOperand, h16]

/-- R95: what a command computes is a function of the operands it reads and of the parameters. -/
theorem AgreeOn.commandResult_eq {i : Instr} {s1 s2 : State} (h : AgreeOn i s1 s2) (hs : startError i s1 = none) :
    commandResult i s1 = commandResult i s2 := by
  have htake : i = .deriveWk ∨ i = .deriveSk → s1.key.take 16 = s2.key.take 16 := fun hi => by
    have hkey : readsKey i = true := by rcases hi with rfl | rfl <;> rfl
    rw [take_key_eq_keyOperand hi hs, take_key_eq_keyOperand hi (h.startError_eq ▸ hs), (h.key hkey).2]
  obtain ⟨hparams, hkey, hdin, hksn⟩ := h
  cases i <;> simp_all [readsKey, readsDin, readsKsn, commandResult, execFunction, encResult, decResult, trackResult]

/-! ### What a command shows at its end (R27, R30, R31) -/

/-- The registers in which a command leaves its result or its error: `DOUT`, `OLEN`, `DONE`, `ERR`, `ERRCODE`. -/
def outputs (s : State) : List Byte × BitVec 11 × Bool × Bool × BitVec 16 :=
  (s.dout, s.olen, s.done, s.err, s.errcode)

theorem outputs_beginCommand (w : Word) {s1 s2 : State} (h : s1.params = s2.params) :
    outputs (beginCommand w s1) = outputs (beginCommand w s2) := by
  simp only [outputs, beginCommand, h]

theorem outputs_commandOperands (i : Instr) (s : State) : outputs (commandOperands i s) = outputs s := by
  unfold commandOperands; split <;> rfl

theorem outputs_failAtStart (e : Err) {s1 s2 : State} (h : outputs s1 = outputs s2) :
    outputs (failAtStart e s1) = outputs (failAtStart e s2) := by
  simp_all [outputs]

theorem outputs_conclude (r : Except Err (List Byte)) {s1 s2 : State} (h : outputs s1 = outputs s2) :
    outputs (conclude r s1) = outputs (conclude r s2) := by
  cases r with
  | ok b => simp_all [outputs]
  | error e => exact outputs_failAtStart e h

/-- R95: nothing but the operands a command reads has an influence on what it shows at its end. -/
theorem AgreeOn.outputs_exec {i : Instr} {s1 s2 t1 t2 : State} (h : AgreeOn i s1 s2) (hb1 : s1.busy = false)
    (hb2 : s2.busy = false) (h1 : exec i s1 = .next t1) (h2 : exec i s2 = .next t2) : outputs t1 = outputs t2 := by
  have hbegun : outputs (beginCommand (encode i) s1) = outputs (beginCommand (encode i) s2) :=
    outputs_beginCommand _ h.params
  rw [exec_eq_runCommand] at h1 h2
  cases hs : startError i s1 with
  | some e =>
    rw [runCommand_failed i _ s1 e hb1 hs] at h1
    rw [runCommand_failed i _ s2 e hb2 (h.startError_eq ▸ hs)] at h2
    cases h1
    cases h2
    exact outputs_failAtStart e hbegun
  | none =>
    rw [runCommand_started i _ s1 hb1 hs] at h1
    rw [runCommand_started i _ s2 hb2 (h.startError_eq ▸ hs)] at h2
    cases h1
    cases h2
    have hagree : AgreeOn i (beginCommand (encode i) s1) (beginCommand (encode i) s2) :=
      ⟨h.params, h.key, h.din, h.ksn⟩
    rw [hagree.commandResult_eq hs]
    refine outputs_conclude _ ?_
    rw [outputs_commandOperands, outputs_commandOperands, hbegun]

end Sys2Proof.Machine
end

section
/-! The statements of the state family: O43, O25, O27, O28, O32, O29, O31, O34, O42, O46. -/

open Sys2Proof Sys2Proof.Machine

/-- Settles O43: `inv_step` for the invariant, and no event touches the parameters. -/
theorem everyStepKeepsInv : Obligations.EveryStepKeepsInv :=
  fun _ _ hinv hstep => ⟨inv_step hinv hstep, step_params hstep⟩

/-- Settles O25: only `CLEAR` has operands to leave other than those it found. -/
theorem operandsPersist : Obligations.OperandsPersist := by
  intro s t i hi h
  have hsame : SameOperands s t := by
    rcases h with hexec | ⟨hd, hstep⟩
    · rcases exec_operands i hexec with hs | hs
      · exact hs
      · rw [commandOperands_of_ne_clear hi] at hs
        exact ⟨hs.key, hs.klen, hs.ksn, hs.iv, hs.din, hs.dlen, hs.params⟩
    · rcases engineStep_operands hd hstep with hs | hs
      · exact hs
      · rwa [commandOperands_of_ne_clear hi] at hs
  exact ⟨hsame.key, hsame.klen, hsame.ksn, hsame.iv, hsame.din, hsame.dlen⟩

/-- Settles O27: the start checks, the result and the end of a command agree in turn. -/
theorem onlyListedOperandsMatter : Obligations.OnlyListedOperandsMatter := by
  intro s1 s2 t1 t2 i hb1 hb2 hparams hkey hdin hksn h1 h2
  have hagree : AgreeOn i s1 s2 := ⟨hparams, hkey, hdin, hksn⟩
  simpa only [outputs, Prod.mk.injEq] using hagree.outputs_exec hb1 hb2 h1 h2

/-- Settles O28: by the register that stands at the address. -/
theorem busyHostAccess : Obligations.BusyHostAccess := by
  intro s addr r hinv hb hadm
  obtain ⟨-, -, hmap⟩ := (admit_eq_ok 4 addr r).1 hadm
  obtain ⟨-, rfl⟩ := (mapAddr_eq_some addr r).1 hmap
  obtain ⟨op, hrun⟩ := (inv_iff_running s hb).1 hinv
  refine ⟨fun v => ?_, fun i => ?_, ?_⟩
  · simp only [hostWrite, hadm, writeValue_busy hb]
  · rw [exec_eq_runCommand, runCommand_busy i _ s hb]
  · simp only [hostRead, hadm, hrun.readValue_eq]

/-- Settles O32: a narrow register keeps the low bits; of a word of an array, what lies before the array's end. -/
theorem writtenWordsReadBack : Obligations.WrittenWordsReadBack := by
  intro s v k hinv hb
  have hs := ((inv_iff_idle s hb).1 hinv).sizes
  have hmod : s.params.dataMax % 16 = 0 := by
    have hwf := hs.params
    simp only [Params.wellFormed, Bool.and_eq_true, decide_eq_true_eq] at hwf
    exact hwf.2
  refine ⟨?_, ?_, fun hk => ?_, ?_, fun hk => ?_, fun _ => ?_⟩ <;> rw [readValue_writeValue hb (by simp)]
  · exact setWidth_setWidth_eq_and v 5 (by decide)
  · exact setWidth_setWidth_eq_and v 11 (by decide)
  · exact readWord_writeWord _ _ v (by rw [hs.ksn]; omega)
  · exact readWord_writeWord_half _ 8 v hs.ksn
  · exact readWord_writeWord _ _ v (by rw [hs.iv]; omega)
  · split
    · exact readWord_writeWord _ _ v (by rw [hs.din]; omega)
    · exact readWord_beyond _ _ (by simp only [storeReg, writeWord_length, hs.din]; omega)

/-- Settles O29: `hostRead_idle` at each row of the map. -/
theorem idleReads : Obligations.IdleReads := by
  intro s k hb
  refine ⟨hostRead_idle hb (r := .cmd) rfl, ?_, hostRead_idle hb (r := .errcode) rfl, hostRead_idle hb (r := .klen) rfl,
    hostRead_idle hb (r := .dlen) rfl, hostRead_idle hb (r := .olen) rfl, hostRead_idle hb (r := .stage) rfl,
    hostRead_idle hb (r := .sr) rfl, fun hk => hostRead_idle hb (admittedReg_key hk),
    fun hk => hostRead_idle hb (admittedReg_ksn hk), fun hk => hostRead_idle hb (admittedReg_iv hk),
    fun hk => hostRead_idle hb (admittedReg_din hk), fun hk => hostRead_idle hb (admittedReg_dout hk)⟩
  rw [← statusWord_idle hb]
  exact hostRead_idle hb (r := .status) rfl

/-- Settles O31: `hostWrite_idle` at each writable row of the map, `hostWrite_readOnly` at the others. -/
theorem idleWritesStore : Obligations.IdleWritesStore := by
  intro s v k hb
  refine ⟨hostWrite_idle hb (r := .klen) rfl (by simp) v, hostWrite_idle hb (r := .dlen) rfl (by simp) v,
    fun hk => hostWrite_idle hb (admittedReg_key hk) (by simp) v,
    fun hk => hostWrite_idle hb (admittedReg_ksn hk) (by simp) v,
    fun hk => hostWrite_idle hb (admittedReg_iv hk) (by simp) v,
    fun hk => hostWrite_idle hb (admittedReg_din hk) (by simp) v, fun u addr h => ?_⟩
  rcases h with h | ⟨hlo, hhi, hal⟩
  · simp only [List.mem_cons, List.not_mem_nil, or_false] at h
    rcases h with rfl | rfl | rfl | rfl | rfl
    · exact hostWrite_readOnly (r := .status) rfl (by simp) rfl
    · exact hostWrite_readOnly (r := .errcode) rfl (by simp) rfl
    · exact hostWrite_readOnly (r := .olen) rfl (by simp) rfl
    · exact hostWrite_readOnly (r := .stage) rfl (by simp) rfl
    · exact hostWrite_readOnly (r := .sr) rfl (by simp) rfl
  · obtain ⟨k, rfl⟩ : ∃ k, addr = 0x800 + 4 * k := ⟨(addr - 0x800) / 4, by omega⟩
    exact hostWrite_readOnly (admittedReg_dout (by omega)) (by simp) rfl

/-- Settles O34: no row of the map shows one of these registers. -/
theorem hiddenRegistersUnreadable : Obligations.HiddenRegistersUnreadable := by
  intro s r key ctr ksnr curkey res rlen perr
  refine ⟨?_, readValue_key s⟩
  cases r <;> rfl

/-- Settles O42. -/
theorem invAtReset : Obligations.InvAtReset :=
  ⟨inv_resetOf Params.taken (by decide), inv_resetOf⟩

/-- Settles O46: the reset event, and the map read register by register over zeros. -/
theorem resetFromAnyState : Obligations.ResetFromAnyState := by
  refine ⟨fun s rest ha => ?_, fun p addr r _ => ?_⟩
  · rw [step_cons s .reset rest ha]
    rfl
  · rw [readValue_idle (resetOf_busy p)]
    cases r
    case ksn | iv | din | dout => exact readWord_zeros _ _
    case status => exact statusWord_idle (resetOf_busy p)
    all_goals rfl

end

section
/-! SUPPORT. The bytes of a word (R10, R64), the accesses that are admitted (R68), the steps that are refused, and the
step of one engine among several (R300). -/

namespace Sys2Proof.Machine

/-! ### The bytes of a word (R10, R64) -/

/-- Appending a byte is one more digit in base 256. -/
theorem toNat_append_byte {w : Nat} (x : BitVec w) (b : Byte) : (x ++ b).toNat = x.toNat * 256 + b.toNat := by
  rw [BitVec.toNat_append, ← Nat.shiftLeft_add_eq_or_of_lt b.isLt, Nat.shiftLeft_eq]

/-- R64: the first byte of a word read is its most significant. -/
theorem readWord_toNat (arr : List Byte) (off : Nat) :
    (readWord arr off).toNat = val ((List.range 4).map fun j => arr.getD (off + j) 0#8) := by
  simp only [readWord, toNat_append_byte]
  simp [val, List.range_succ]

/-- R10: byte `j` of `bytes_n(v)`, counted from the most significant. -/
theorem bytesN_getD (n v j : Nat) (h : j < n) :
    (bytesN n v).getD j 0#8 = BitVec.ofNat 8 (v / 256 ^ (n - 1 - j)) := by
  induction n generalizing j with
  | zero => omega
  | succ n ih =>
    cases j with
    | zero => simp [bytesN]
    | succ j =>
      rw [bytesN, List.getD_cons_succ, ih j (by omega)]
      congr 3
      omega

/-- The bytes of a word are its slices of 8 bits. -/
theorem bytesN_four_getD (v : Word) (j : Nat) (h : j < 4) :
    (bytesN 4 v.toNat).getD j 0#8 = v.extractLsb' (8 * (3 - j)) 8 := by
  rw [bytesN_getD 4 _ j h]
  apply BitVec.eq_of_toNat_eq
  rw [BitVec.extractLsb'_toNat, BitVec.toNat_ofNat, Nat.shiftRight_eq_div_pow, Nat.pow_mul]

/-- R64: a write stores those of its four bytes that lie inside the array. -/
theorem writeWord_getD (arr : List Byte) (off : Nat) (v : Word) (j : Nat) (hj : j < 4) (hin : off + j < arr.length) :
    (writeWord arr off v).getD (off + j) 0#8 = v.extractLsb' (8 * (3 - j)) 8 := by
  simp only [writeWord, List.getD_eq_getElem?_getD, List.getElem?_set, List.length_set]
  interval_cases j <;> simp_all

/-! ### The accesses that are admitted (R62, R68) -/

/-- The addresses R62 maps: the narrow registers and `KEY`, then `KSN`, `IV`, `DIN` and `DOUT`. -/
def Mapped (addr : Nat) : Prop :=
  addr ≤ 0x037 ∨ (0x040 ≤ addr ∧ addr ≤ 0x04B) ∨ (0x050 ≤ addr ∧ addr ≤ 0x057) ∨ (0x400 ≤ addr ∧ addr ≤ 0x7FF) ∨
    (0x800 ≤ addr ∧ addr ≤ 0xC0F)

/-- R68: 32 bits wide, at a multiple of 4, at a mapped address. -/
def Admitted (size addr : Nat) : Prop := size = 4 ∧ addr % 4 = 0 ∧ Mapped addr

/-- R62: where the model's map has no register, among the multiples of 4. -/
theorem mapAddr_eq_none {addr : Nat} (hal : addr % 4 = 0) : mapAddr addr = none ↔ ¬Mapped addr := by
  simp only [mapAddr, Mapped, ite_eq_iff, reduceCtorEq, and_false, and_true, false_or]
  omega

/-- The model admits exactly the accesses of R68. -/
theorem admitted_iff (size addr : Nat) : Admitted size addr ↔ ∃ r, admittedReg size addr = .ok r := by
  simp only [admit_eq_ok, exists_and_left]
  refine and_congr_right fun _ => and_congr_right fun hal => ?_
  rw [← Option.isSome_iff_exists, ← Option.ne_none_iff_isSome, ne_eq, mapAddr_eq_none hal, not_not]

/-- R68: a host read that is not admitted is refused, and no other. -/
theorem hostRead_refused_iff (size addr : Nat) (s : State) :
    (∃ e, hostRead size addr s = .refused e) ↔ ¬Admitted size addr := by
  rw [admitted_iff]
  rcases hostRead_cases size addr s with ⟨r, hr, hn⟩ | ⟨e, he, hn⟩
  · simp [hr, hn]
  · simp [he, hn]

/-- R68: a host write that is not admitted is refused, and no other. -/
theorem hostWrite_refused_iff (size addr : Nat) (v : Word) (s : State) :
    (∃ e, hostWrite size addr v s = .refused e) ↔ ¬Admitted size addr := by
  rw [admitted_iff]
  rcases hostWrite_cases size addr v s with ⟨r, hr, hn⟩ | ⟨e, he, hn⟩
  · simp [hr, hn]
  · simp [he, hn]

/-! ### The steps that are refused (R68) -/

/-- Every command has a meaning: no arm of `exec` answers `.notModelled`. -/
theorem exec_ne_refused (i : Instr) (s : State) (e : Refusal) : exec i s ≠ .refused e := by
  rw [exec_eq_runCommand]
  intro h
  rcases runCommand_cases i _ s _ h with ⟨-, ho⟩ | ⟨_, -, -, ho⟩ | ⟨-, -, ho⟩ <;> cases ho

theorem runWord_ne_refused (w : Word) (s : State) (e : Refusal) : runWord w s ≠ .refused e := by
  unfold runWord
  split
  · exact exec_ne_refused _ s e
  · nofun

theorem engineTurn_ne_refused (s : State) (e : Refusal) : engineTurn s ≠ .refused e := by
  rcases engineTurn_cases s with ⟨-, h⟩ | ⟨-, _, -, h⟩ | ⟨-, -, h⟩ <;> simp [h]

/-- Only a host access is ever refused. -/
theorem step_refused_cases {s : State} {e : Refusal} (h : step s = .refused e) :
    (∃ size addr rest, s.agenda = .read size addr :: rest) ∨
      ∃ size addr v rest, s.agenda = .write size addr v :: rest := by
  cases ha : s.agenda with
  | nil => exact absurd (step_nil s ha ▸ h) (engineTurn_ne_refused s e)
  | cons ev rest =>
    rw [step_cons s ev rest ha] at h
    cases ev with
    | read size addr => exact .inl ⟨size, addr, rest, rfl⟩
    | write size addr v => exact .inr ⟨size, addr, v, rest, rfl⟩
    | command w => exact absurd h (runWord_ne_refused w _ e)
    | engine => exact absurd h (engineTurn_ne_refused _ e)
    | reset => cases h

/-! ### One engine among several (R74, R300) -/

/-- A next state that the chosen engine answers is put in that engine's own place. -/
theorem stepInstance_next {sys sys' : List State} {k : Nat} {s : State} (hk : sys[k]? = some s)
    (h : stepInstance k sys = .next sys') : ∃ t, step s = .next t ∧ sys' = sys.set k t := by
  simp only [stepInstance, hk] at h
  cases hs : step s with
  | next t => rw [hs] at h; cases h; exact ⟨t, rfl, rfl⟩
  | fault f => rw [hs] at h; cases h
  | refused r => rw [hs] at h; cases h

end Sys2Proof.Machine
end

section
/-! The statements of the memory family: O30, O33, O59. -/

open Sys2Proof Sys2Proof.Machine

/-- Settles O30: the word as base-256 digits, and the four bytes of a write one by one. -/
theorem wordsPackBigEndian : Obligations.WordsPackBigEndian := fun arr off v =>
  ⟨readWord_toNat arr off, writeWord_length arr off v,
    fun j hj hin => (writeWord_getD arr off v j hj hin).trans (bytesN_four_getD v j hj).symm,
    fun j hj => writeWord_frame arr off j v hj⟩

/-- Settles O33: an access is refused exactly off the map, and nothing but an access is refused. -/
theorem onlyUnadmittedAccessRefused : Obligations.OnlyUnadmittedAccessRefused := by
  refine ⟨fun s size addr v rest => ⟨fun ha => ?_, fun ha => ?_⟩, fun s e h => ?_⟩
  · rw [step_cons s _ rest ha]
    exact hostRead_refused_iff size addr _
  · rw [step_cons s _ rest ha]
    exact hostWrite_refused_iff size addr v _
  · rcases step_refused_cases h with ⟨size, addr, rest, ha⟩ | ⟨size, addr, v, rest, ha⟩
    · exact ⟨size, addr, rest, .inl ha⟩
    · exact ⟨size, addr, rest, .inr ⟨v, ha⟩⟩

/-- Settles O59: the step's state is set in the engine's own place of the list. -/
theorem instancesShareNothing : Obligations.InstancesShareNothing := by
  intro sys sys' k s hk h
  obtain ⟨t, hstep, rfl⟩ := stepInstance_next hk h
  obtain ⟨hlt, -⟩ := List.getElem?_eq_some_iff.1 hk
  exact ⟨⟨t, hstep, List.getElem?_set_self hlt⟩, List.length_set, fun j hj => List.getElem?_set_ne hj.symm⟩

end

section
/-! SUPPORT. The command word read field by field (R90 to R93), the tables by command, and the errors found at start (R94,
R290). -/

namespace Sys2Proof.Machine

/-! ### The command word and its fields (R90 to R93) -/

/-- R90: the three fields make up the whole word. -/
theorem append_fields (w : Word) : fieldZero w ++ fieldAlg w ++ fieldOp w = w := by
  apply BitVec.eq_of_getLsbD_eq
  intro i hi
  simp only [fieldZero, fieldAlg, fieldOp, BitVec.getLsbD_append, BitVec.getLsbD_extractLsb']
  grind

/-- R91: the selectors of the three ciphers, for the `ENC` and the `DEC` row of each. -/
theorem algField_of_algOf {a : BitVec 2} {g : Alg} (h : algOf a = some g) :
    algField (encOf g) = a ∧ algField (decOf g) = a := by
  unfold algOf at h
  split at h <;> cases h <;> exact ⟨rfl, rfl⟩

theorem opField_encOf (g : Alg) : opField (encOf g) = 0x10#8 := by cases g <;> rfl

theorem opField_decOf (g : Alg) : opField (decOf g) = 0x11#8 := by cases g <;> rfl

/-- R92: the rows without a cipher selector. -/
theorem fields_of_plainOf {op : BitVec 8} {i : Instr} (h : plainOf op = some i) :
    opField i = op ∧ algField i = 0#2 := by
  unfold plainOf at h
  split at h <;> cases h <;> exact ⟨rfl, rfl⟩

/-- R92, R93: a word that decodes to a command has the fields of the command's row, and `ZERO` zero. -/
theorem fields_of_decode {w : Word} {i : Instr} (h : decode w = .ok i) :
    fieldZero w = 0#22 ∧ fieldAlg w = algField i ∧ fieldOp w = opField i := by
  unfold decode at h
  split at h
  · cases h
  next hz =>
  have hzero : fieldZero w = 0#22 := not_not.1 hz
  split at h
  next hop =>
    split at h
    next g hg => cases h; exact ⟨hzero, (algField_of_algOf hg).1.symm, hop.trans (opField_encOf g).symm⟩
    · cases h
  split at h
  next hop =>
    split at h
    next g hg => cases h; exact ⟨hzero, (algField_of_algOf hg).2.symm, hop.trans (opField_decOf g).symm⟩
    · cases h
  split at h
  next j hj =>
    obtain ⟨hop, halg⟩ := fields_of_plainOf hj
    split at h
    next ha => cases h; exact ⟨hzero, ha.trans halg.symm, hop.symm⟩
    · cases h
  · cases h

/-- R93: a word that decodes to a command is that command's word. -/
theorem eq_encode_of_decode {w : Word} {i : Instr} (h : decode w = .ok i) : w = encode i := by
  obtain ⟨hzero, halg, hop⟩ := fields_of_decode h
  rw [← append_fields w, hzero, halg, hop, encode]

/-! ### The tables by command (R94 to R96, R231) -/

/-- Step 9 of R94 by command. -/
theorem loadsCurkey_iff (i : Instr) : loadsCurkey i = true ↔ i = .deriveWk ∨ i = .deriveSk := by
  cases i <;> decide

/-- R231: the first stage by command. -/
theorem firstStage_eq (i : Instr) :
    firstStage i =
      if i = .deriveIpek ∨ i = .deriveKey ∨ i = .decryptTrack then .ipek
      else if i = .deriveWk then .wkInit
      else if i = .deriveSk then .session
      else .exec := by
  cases i <;> rfl

/-! ### A `CMD` write while idle (R94) -/

theorem startCommand_encode {i : Instr} {s : State} (h : startError i s = none) :
    startCommand (encode i) s = acceptCommand i (beginCommand (encode i) s) := by
  simp [startCommand, h]

theorem startCommand_encode_failed {i : Instr} {s : State} {e : Err} (h : startError i s = some e) :
    startCommand (encode i) s = failAtStart e (beginCommand (encode i) s) := by
  simp [startCommand, h]

/-! ### Which start error is found (R94 steps 4 to 7, R290) -/

section
variable {i : Instr} {s : State}

theorem startError_keyTooLong (h : readsKey i = true ∧ 24 < s.klen.toNat) :
    startError i s = some (badOperand 1#8) := by
  simp [startError, h]

theorem startError_dataTooLong (hk : ¬(readsKey i = true ∧ 24 < s.klen.toNat))
    (h : readsDin i = true ∧ s.params.dataMax < s.dlen.toNat) : startError i s = some (badOperand 2#8) := by
  rw [startError, if_neg (by simpa using hk)]
  simp [h]

theorem startError_illegalKlen (hk : ¬(readsKey i = true ∧ 24 < s.klen.toNat))
    (hd : ¬(readsDin i = true ∧ s.params.dataMax < s.dlen.toNat)) (h : legalKlen i s.klen.toNat = false) :
    startError i s = some (cipherFailed 1#8) := by
  rw [startError, if_neg (by simpa using hk), if_neg (by simpa using hd)]
  simp [h]

theorem startError_illegalDlen (hk : ¬(readsKey i = true ∧ 24 < s.klen.toNat))
    (hd : ¬(readsDin i = true ∧ s.params.dataMax < s.dlen.toNat)) (hl : legalKlen i s.klen.toNat = true)
    (h : legalDlen s.params.dataMax i s.dlen.toNat = false) : startError i s = some (cipherFailed 2#8) := by
  rw [startError, if_neg (by simpa using hk), if_neg (by simpa using hd)]
  simp [hl, h]

/-- R286: a command that fails a start check leaves its word, the error and an empty result, and nothing else. -/
theorem exec_of_startError {e : Err} (hb : s.busy = false) (h : startError i s = some e) :
    exec i s = .next (endedInError (encode i) (errWord e) s) := by
  rw [exec_eq_runCommand, runCommand_failed i _ s e hb h]
  rfl

end

end Sys2Proof.Machine
end

section
/-! SUPPORT. The statements `RUN`, `OUT` and `EXPECT` of a host script (R98): the engine's turns between two polls, the
state a command ends in, and the bytes of the words read. -/

namespace Sys2Proof.Machine

/-! ### The engine does not see the host's side (R230, log entries 2 and 4) -/

/-- The state with another agenda and other values returned to the host: the two fields that are no hardware and that no
engine step reads. -/
def withHost (es : List Event) (rs : List (Nat × Word)) (s : State) : State := { s with agenda := es, returned := rs }

section
variable (es : List Event) (rs : List (Nat × Word)) (op : Instr) (s : State)

theorem holdOrRaise_withHost (r : Except Err (List Byte)) :
    holdOrRaise r (withHost es rs s) = withHost es rs (holdOrRaise r s) := by
  cases r <;> rfl

theorem commandOperands_withHost : commandOperands op (withHost es rs s) = withHost es rs (commandOperands op s) := by
  unfold commandOperands; split <;> rfl

theorem stepExec_withHost : stepExec op (withHost es rs s) = (stepExec op s).map (withHost es rs) := by
  have hf : execFunction op (withHost es rs s) = execFunction op s := by cases op <;> rfl
  have hop := commandOperands_withHost es rs op s
  unfold commandOperands at hop
  rw [stepExec, stepExec, hf, hop]
  cases execFunction op s with
  | none => rfl
  | some r => exact congrArg some (holdOrRaise_withHost es rs _ r)

theorem stepIpek_withHost : stepIpek op (withHost es rs s) = (stepIpek op s).map (withHost es rs) := by
  cases op <;> rfl

theorem stepWkInit_withHost : stepWkInit op (withHost es rs s) = (stepWkInit op s).map (withHost es rs) := by
  cases op <;> rfl

theorem counterBitStep_withHost : counterBitStep (withHost es rs s) = withHost es rs (counterBitStep s) := by
  rw [counterBitStep_eq s, counterBitStep_eq (withHost es rs s), counterBitStep_ksnr, counterBitStep_curkey,
    counterBitStep_ksnr, counterBitStep_curkey]
  rfl

theorem shiftStep_withHost : shiftStep op (withHost es rs s) = (shiftStep op s).map (withHost es rs) := by
  by_cases h : s.sr >>> 1 ≠ 0#21
  · simp [shiftStep, withHost, h]
  · cases op <;> simp_all [shiftStep, withHost, holdResult]

theorem stepSession_withHost : stepSession op (withHost es rs s) = (stepSession op s).map (withHost es rs) := by
  cases op <;> rfl

theorem stepTrack_withHost : stepTrack op (withHost es rs s) = (stepTrack op s).map (withHost es rs) := by
  unfold stepTrack
  split
  · exact congrArg some (holdOrRaise_withHost es rs s _)
  · rfl

theorem stepFinish_withHost : stepFinish (withHost es rs s) = withHost es rs (stepFinish s) := by
  by_cases h : s.perr ≠ 0#16 <;> simp [stepFinish, publish, withHost, h]

/-- An engine step neither reads nor changes the host's side. -/
theorem engineStep_withHost : engineStep (withHost es rs s) = (engineStep s).map (withHost es rs) := by
  cases hb : s.busy with
  | false => simp [engineStep, withHost, hb]
  | true =>
    cases hd : decode s.cmd with
    | error e => simp [engineStep, withHost, hb, hd]
    | ok op =>
      have hb' : (withHost es rs s).busy = true := hb
      have hd' : decode (withHost es rs s).cmd = .ok op := hd
      have hst : (withHost es rs s).stage = s.stage := rfl
      rw [engineStep, engineStep, if_pos hb, if_pos hb', hd, hd', hst]
      cases s.stage with
      | idle => rfl
      | exec => exact stepExec_withHost es rs op s
      | ipek => exact stepIpek_withHost es rs op s
      | wkInit => exact stepWkInit_withHost es rs op s
      | wkIter =>
        dsimp only
        rw [stepWkIter, counterBitStep_withHost, shiftStep_withHost, stepWkIter]
      | session => exact stepSession_withHost es rs op s
      | track => exact stepTrack_withHost es rs op s
      | finish => exact congrArg some (stepFinish_withHost es rs s)

end

theorem withHost_nil {rs : List (Nat × Word)} {s : State} (h : s.agenda = []) :
    withHost [] rs s = { s with returned := rs } := by
  rw [← h]; rfl

/-! ### The engine's turns, as the host gives them (R230, log entry 15) -/

theorem engineRun_withHost (es : List Event) (rs : List (Nat × Word)) (n : Nat) (s : State) :
    engineRun n (withHost es rs s) = (engineRun n s).map (withHost es rs) := by
  induction n generalizing s with
  | zero => rfl
  | succ n ih =>
    rw [engineRun, engineRun, engineStep_withHost]
    cases engineStep s with
    | none => rfl
    | some t => exact ih t

/-- A run of the engine leaves the host's side as it was. -/
theorem engineRun_host {n : Nat} {s t : State} (h : engineRun n s = some t) :
    t.agenda = s.agenda ∧ t.returned = s.returned := by
  have hself := engineRun_withHost s.agenda s.returned n s
  rw [show withHost s.agenda s.returned s = s from rfl, h] at hself
  have ht : t = withHost s.agenda s.returned t := Option.some.inj hself
  exact ⟨(congrArg State.agenda ht :), (congrArg State.returned ht :)⟩

theorem engineRun_add {n m : Nat} {s u : State} (h : engineRun (n + m) s = some u) :
    ∃ t, engineRun n s = some t ∧ engineRun m t = some u := by
  induction n generalizing s with
  | zero => exact ⟨s, rfl, by rwa [Nat.zero_add] at h⟩
  | succ n ih =>
    rw [Nat.add_right_comm, engineRun] at h
    rw [engineRun]
    split at h
    next t ht => simpa only [ht] using ih h
    · cases h

/-- Where the engine still has a step to take, a command is running. -/
theorem busy_of_engineRun_succ {n : Nat} {s u : State} (h : engineRun (n + 1) s = some u) : s.busy = true := by
  rw [engineRun] at h
  split at h
  next t ht => exact (engineStep_cases s t ht).1
  · cases h

theorem runSteps_add {n m : Nat} {s t : State} (h : runSteps n s = .next t) :
    runSteps (n + m) s = runSteps m t := by
  induction n generalizing s with
  | zero => cases h; rw [Nat.zero_add]
  | succ n ih =>
    rw [runSteps] at h
    rw [Nat.add_right_comm, runSteps]
    split at h
    next u _ => exact ih h
    · cases h
    · cases h

/-- What the engine's turn does, it does whatever the host's side is. -/
theorem engineTurn_withHost (es : List Event) (rs : List (Nat × Word)) {s t : State} (h : engineTurn s = .next t) :
    engineTurn (withHost es rs s) = .next (withHost es rs t) := by
  unfold engineTurn at h ⊢
  rw [engineStep_withHost, show (withHost es rs s).busy = s.busy from rfl]
  split at h
  · split at h
    next u hu => cases h; simp [*]
    · cases h
  · cases h; simp [*]

theorem engineTurn_host {s t : State} (h : engineTurn s = .next t) : t.agenda = s.agenda ∧ t.returned = s.returned := by
  have hself := engineTurn_withHost s.agenda s.returned h
  rw [show withHost s.agenda s.returned s = s from rfl, h] at hself
  have ht : t = withHost s.agenda s.returned t := Host.Outcome.next.inj hself
  exact ⟨(congrArg State.agenda ht :), (congrArg State.returned ht :)⟩

/-- Turns asked for on the agenda are those the engine takes by itself (log entry 3). -/
theorem hostDo_engine {n : Nat} {s t : State} (ha : s.agenda = []) (h : runSteps n s = .next t) :
    hostDo (List.replicate n Event.engine) s = .ok t := by
  rw [hostDo_eq_ok, List.length_replicate]
  change runSteps n (withHost (List.replicate n .engine) s.returned s) = .next t
  induction n generalizing s with
  | zero =>
    cases h
    rw [runSteps, List.replicate_zero, ← ha]
    rfl
  | succ n ih =>
    rw [runSteps, step_nil s ha] at h
    split at h
    next u hu =>
      obtain ⟨hagenda, hreturned⟩ := engineTurn_host hu
      have hstep : step (withHost (List.replicate (n + 1) .engine) s.returned s) =
          .next (withHost (List.replicate n .engine) u.returned u) := by
        rw [hreturned]
        exact (step_cons _ .engine (List.replicate n .engine) rfl).trans
          (engineTurn_withHost (s := s) (List.replicate n .engine) s.returned hu :)
      rw [runSteps, hstep]
      exact ih (hagenda.trans ha) h
    · cases h
    · cases h

/-- Turns beyond the end of a command change nothing (R230). -/
theorem hostDo_engine_past {n p : Nat} {s u : State} (ha : s.agenda = []) (h : engineRun n s = some u)
    (hu : u.busy = false) (hp : n ≤ p) : hostDo (List.replicate p Event.engine) s = .ok u := by
  obtain ⟨m, rfl⟩ := Nat.exists_eq_add_of_le hp
  refine hostDo_engine ha ?_
  rw [runSteps_add (runSteps_of_engineRun n s u ha h)]
  exact runSteps_idle m u ((engineRun_host h).1.trans ha) hu

/-! ### The polls of `RUN` (R98) -/

/-- A poll that finds the command ended reads `DONE`, and the other polls are left over. -/
theorem pollDone_ended {n p : Nat} {s u : State} (rest : List Nat) (ha : s.agenda = []) (h : engineRun n s = some u)
    (hu : u.busy = false) (hdone : u.done = true) (hp : n ≤ p) :
    pollDone (p :: rest) s = .ok (withHost [] (s.returned ++ [(0x004, statusWord u)]) u, rest) := by
  have hbit : (statusWord u).getLsbD 1 = true := by
    rw [statusWord_idle hu, hdone]
    cases u.err <;> rfl
  rw [pollDone_cons p rest s u (hostDo_engine_past ha h hu hp), readValue_idle hu, regWord, (engineRun_host h).2]
  exact if_pos hbit

/-- A poll that finds the command running reads `BUSY` alone, and the next poll follows. -/
theorem pollDone_running {p : Nat} {s x : State} (rest : List Nat) (ha : s.agenda = []) (hinv : s.inv = true)
    (h : engineRun p s = some x) (hx : x.busy = true) :
    pollDone (p :: rest) s = pollDone rest (withHost [] (s.returned ++ [(0x004, 0x00000001#32)]) x) := by
  have hsteps := runSteps_of_engineRun p s x ha h
  obtain ⟨op, hrun⟩ := (inv_iff_running x hx).1 (inv_runSteps p hinv hsteps)
  have hread : readValue x .status = 0x00000001#32 := by rw [hrun.readValue_eq]; rfl
  rw [pollDone_cons p rest s x (hostDo_engine ha hsteps), hread, (engineRun_host h).2]
  exact if_neg (by decide)

/-- Given enough turns in all, the polls reach the end of the command, and one of them reads `DONE`. -/
theorem pollDone_ends {polls : List Nat} {n : Nat} {s u : State} (ha : s.agenda = []) (hinv : s.inv = true)
    (h : engineRun n s = some u) (hu : u.busy = false) (hdone : u.done = true) (hn : n ≤ polls.sum) (hne : polls ≠ []) :
    ∃ k, k < polls.length ∧ (n = 0 → k = 0) ∧ pollDone polls s = .ok
      (withHost [] (s.returned ++ List.replicate k (0x004, 0x00000001#32) ++ [(0x004, statusWord u)]) u,
        polls.drop (k + 1)) := by
  induction polls generalizing n s u with
  | nil => exact absurd rfl hne
  | cons p rest ih =>
    by_cases hp : n ≤ p
    · exact ⟨0, by simp, fun _ => rfl, by simpa using pollDone_ended rest ha h hu hdone hp⟩
    · obtain ⟨m, rfl⟩ := Nat.exists_eq_add_of_lt (Nat.lt_of_not_le hp)
      obtain ⟨x, hx, hm⟩ := engineRun_add (n := p) (m := m + 1) h
      have hsum : m + 1 ≤ rest.sum := by rw [List.sum_cons] at hn; omega
      have hrest : rest ≠ [] := by rintro rfl; simp at hsum
      have hxinv : x.inv = true := inv_runSteps p hinv (runSteps_of_engineRun p s x ha hx)
      have hnext : ∀ rs, engineRun (m + 1) (withHost [] rs x) = some (withHost [] rs u) := fun rs =>
        (engineRun_withHost [] rs (m + 1) x).trans (congrArg _ hm)
      obtain ⟨k, hk, -, hpoll⟩ := ih (s := withHost [] _ x) rfl hxinv (hnext (s.returned ++ [(0x004, 0x00000001#32)])) hu
        hdone hsum hrest
      refine ⟨k + 1, by simpa using hk, fun h0 => by omega, ?_⟩
      rw [pollDone_running rest ha hinv hx (busy_of_engineRun_succ hm), hpoll]
      simp only [withHost, List.replicate_succ, List.append_assoc, List.singleton_append, List.drop_succ_cons]
      rfl

/-- Given too few turns, the polls end while the command still runs. -/
theorem pollDone_stillPolling {polls : List Nat} {n : Nat} {s u : State} (ha : s.agenda = []) (hinv : s.inv = true)
    (h : engineRun n s = some u) (hn : polls.sum < n) : pollDone polls s = .error .stillPolling := by
  induction polls generalizing n s u with
  | nil => rfl
  | cons p rest ih =>
    rw [List.sum_cons] at hn
    obtain ⟨m, rfl⟩ := Nat.exists_eq_add_of_lt (show p < n by omega)
    obtain ⟨x, hx, hm⟩ := engineRun_add (n := p) (m := m + 1) h
    have hxinv : x.inv = true := inv_runSteps p hinv (runSteps_of_engineRun p s x ha hx)
    rw [pollDone_running rest ha hinv hx (busy_of_engineRun_succ hm)]
    exact ih rfl hxinv ((engineRun_withHost _ _ _ x).trans (congrArg _ hm)) (by omega)

/-! ### `RUN` (R98) -/

theorem commandOperands_returned (i : Instr) (s : State) : (commandOperands i s).returned = s.returned := by
  unfold commandOperands; split <;> rfl

theorem commandOperands_busy (i : Instr) (s : State) : (commandOperands i s).busy = s.busy := by
  unfold commandOperands; split <;> rfl

theorem conclude_agenda (r : Except Err (List Byte)) (s : State) : (conclude r s).agenda = s.agenda := by
  cases r <;> rfl

/-- A command that an idle block takes has ended, well or in error, and leaves the host's side as it was (R242, R286). -/
theorem exec_ends {i : Instr} {s u : State} (hb : s.busy = false) (h : exec i s = .next u) :
    u.busy = false ∧ u.done = true ∧ u.agenda = s.agenda ∧ u.returned = s.returned := by
  rw [exec_eq_runCommand] at h
  rcases runCommand_cases i _ s _ h with ⟨hbusy, -⟩ | ⟨e, -, -, ho⟩ | ⟨-, -, ho⟩
  · simp [hb] at hbusy
  · cases ho
    exact ⟨hb, rfl, rfl, rfl⟩
  · cases ho
    have hbusy := (commandOperands_busy i (beginCommand (encode i) s)).trans hb
    have hagenda := commandOperands_agenda i (beginCommand (encode i) s)
    have hreturned := commandOperands_returned i (beginCommand (encode i) s)
    cases commandResult i (beginCommand (encode i) s) <;> exact ⟨hbusy, rfl, hagenda, hreturned⟩

/-- R246: the engine brings a start whose checks pass to the state of the functional view, in the command's own steps. -/
theorem Idle.engineRun_startCommand {i : Instr} {s : State} (h : Idle s) (he : startError i s = none) :
    engineRun (engineSteps i) (startCommand (encode i) s) =
      some (conclude (commandResult i (beginCommand (encode i) s)) (commandOperands i (beginCommand (encode i) s))) := by
  rw [startCommand_encode he]
  exact (begun_beginCommand _ h).engineRun_acceptCommand i (decode_encode i) he

/-- R246: from the `CMD` write to the state of the functional view the engine takes no step, if a start check fails, and
otherwise the command's own. -/
theorem Idle.engineRun_exec {i : Instr} {s u : State} (h : Idle s) (hu : exec i s = .next u) :
    ∃ n ≤ engineSteps i, engineRun n (startCommand (encode i) s) = some u := by
  rw [exec_eq_runCommand] at hu
  cases he : startError i s with
  | some e =>
    rw [runCommand_failed i _ s e h.rest.busy he] at hu
    cases hu
    exact ⟨0, Nat.zero_le _, congrArg some (startCommand_encode_failed he)⟩
  | none =>
    rw [runCommand_started i _ s h.rest.busy he] at hu
    cases hu
    exact ⟨_, le_rfl, h.engineRun_startCommand he⟩

/-- The `CMD` write of the sequencer view (R94). -/
theorem hostDo_cmdWrite_sequencer {s : State} (hb : s.busy = false) (w : Word) :
    hostDo [cmdWrite .sequencer w] s = .ok (startCommand w { s with agenda := [] }) := by
  rw [hostDo_single, cmdWrite, ← step_cmdWrite s w [] hb]
  rfl

/-- The `CMD` write of the functional view is the whole command (R19). -/
theorem hostDo_cmdWrite_functional {i : Instr} {s u : State} (h : exec i { s with agenda := [] } = .next u) :
    hostDo [cmdWrite .functional (encode i)] s = .ok u := by
  rw [hostDo_single, cmdWrite, perform, runWord, decode_encode]
  exact h

/-- The first access of `RUN`, in either view, leaves a state from which the engine reaches the end of the command: at
once in the functional view, within the command's own steps in the sequencer view (R19, R246). -/
theorem hostDo_cmdWrite {i : Instr} {s u : State} (v : View) (hinv : s.inv = true) (hb : s.busy = false)
    (h : exec i { s with agenda := [] } = .next u) :
    ∃ x n, hostDo [cmdWrite v (encode i)] s = .ok x ∧ engineRun n x = some u ∧ n ≤ engineSteps i ∧
      (v = .functional → n = 0) ∧ x.inv = true := by
  have hidle := (inv_iff_idle { s with agenda := [] } hb).1 hinv
  cases v with
  | functional =>
    exact ⟨u, 0, hostDo_cmdWrite_functional h, rfl, Nat.zero_le _, fun _ => rfl, inv_exec i hidle.inv h⟩
  | sequencer =>
    obtain ⟨n, hn, hrun⟩ := hidle.engineRun_exec h
    exact ⟨_, n, hostDo_cmdWrite_sequencer hb _, hrun, hn, nofun, hidle.inv_startCommand _⟩

/-- `RUN` is its `CMD` write and then its polls. -/
theorem runStmt_run_eq {v : View} {i : Instr} {s x : State} (env : HostEnv)
    (h : hostDo [cmdWrite v (encode i)] s = .ok x) :
    runStmt v (.run i) s env = (pollDone env.polls x).map fun r => (r.1, { env with polls := r.2 }) := by
  simp only [runStmt, h, Bind.bind, Except.bind]
  cases pollDone env.polls x <;> rfl

/-- R30: `STATUS` at the end of a command. -/
theorem statusWord_ended {u : State} (hb : u.busy = false) (hdone : u.done = true) :
    statusWord u = if u.err then 0x00000006#32 else 0x00000002#32 := by
  rw [statusWord_idle hb, hdone]
  cases u.err <;> rfl

/-- R98, R246: given enough turns, `RUN` ends in the state of the functional view, with the words its polls read. -/
theorem runStmt_run_ends {v : View} {i : Instr} {s u : State} {env : HostEnv} (hinv : s.inv = true)
    (hb : s.busy = false) (h : exec i { s with agenda := [] } = .next u) (hne : env.polls ≠ [])
    (hturns : v = .functional ∨ engineSteps i ≤ env.polls.sum) :
    ∃ k, k < env.polls.length ∧ (v = .functional → k = 0) ∧
      runStmt v (.run i) s env = .ok
        (withHost []
          (s.returned ++ List.replicate k (0x004, 0x00000001#32) ++
            [(0x004, if u.err then 0x00000006#32 else 0x00000002#32)]) u,
          { env with polls := env.polls.drop (k + 1) }) := by
  obtain ⟨hub, hudone, huagenda, hureturned⟩ := exec_ends (s := { s with agenda := [] }) hb h
  obtain ⟨x, n, hdo, hrun, hsteps, hfun, hxinv⟩ := hostDo_cmdWrite v hinv hb h
  obtain ⟨hxagenda, hxreturned⟩ := engineRun_host hrun
  have hn : n ≤ env.polls.sum := by
    rcases hturns with hv | hle
    · rw [hfun hv]; exact Nat.zero_le _
    · exact hsteps.trans hle
  obtain ⟨k, hk, hk0, hpoll⟩ := pollDone_ends (hxagenda.symm.trans huagenda) hxinv hrun hub hudone hn hne
  refine ⟨k, hk, fun hv => hk0 (hfun hv), ?_⟩
  rw [runStmt_run_eq env hdo, hpoll, statusWord_ended hub hudone, ← hxreturned, hureturned]
  rfl

/-- R98, R242: with fewer turns than the command has steps, `RUN` polls on. -/
theorem runStmt_run_stillPolling {i : Instr} {s : State} {env : HostEnv} (hinv : s.inv = true) (hb : s.busy = false)
    (he : startError i s = none) (hturns : env.polls.sum < engineSteps i) :
    runStmt .sequencer (.run i) s env = .error .stillPolling := by
  have hidle := (inv_iff_idle { s with agenda := [] } hb).1 hinv
  have hrun := hidle.engineRun_startCommand (i := i) he
  have hagenda := (engineRun_host hrun).1.symm.trans ((conclude_agenda _ _).trans (commandOperands_agenda i _))
  rw [runStmt_run_eq env (hostDo_cmdWrite_sequencer hb _),
    pollDone_stillPolling hagenda (hidle.inv_startCommand _) hrun hturns]
  rfl

/-! ### `OUT` and `EXPECT` (R98) -/

/-- The bytes of a word read from an array are the array's bytes there (R64). -/
theorem wordBytes_readWord (arr : List Byte) (off : Nat) :
    wordBytes (readWord arr off) = (List.range 4).map fun j => arr.getD (off + j) 0#8 := by
  rw [wordBytes, readWord_toNat]
  exact bytesN_val ((List.range 4).map fun j => arr.getD (off + j) 0#8)

/-- The bytes of the first `n` words of an array are its first `4n` bytes. -/
theorem flatMap_wordBytes_readWord (arr : List Byte) (n : Nat) :
    ((List.range n).map fun w => readWord arr (4 * w)).flatMap wordBytes =
      (List.range (4 * n)).map fun j => arr.getD j 0#8 := by
  induction n with
  | zero => rfl
  | succ n ih =>
    rw [List.range_succ, List.map_append, List.flatMap_append, ih, Nat.mul_succ, List.range_add, List.map_append,
      List.map_map]
    simp only [List.map_cons, List.map_nil, List.flatMap_cons, List.flatMap_nil, List.append_nil, wordBytes_readWord]
    rfl

theorem take_map_getD (arr : List Byte) (k n : Nat) (hn : k ≤ n) (hk : k ≤ arr.length) :
    ((List.range n).map fun j => arr.getD j 0#8).take k = arr.take k := by
  refine List.ext_getElem (by simp; omega) fun j h1 h2 => ?_
  have hj : j < arr.length := by simp at h2; omega
  simp [hj]

/-- The reads of `DOUT` that `OUT` makes for this `OLEN` (R67, R98). -/
theorem hostReads_outAddrs {s : State} (hb : s.busy = false) {olen : Nat} (holen : olen ≤ 0x410) :
    hostReads (outAddrs olen) s = .ok
      ((List.range ((olen + 3) / 4)).map fun w => readWord s.dout (4 * w),
        withHost []
          (s.returned ++ (List.range ((olen + 3) / 4)).map fun w => (0x800 + 4 * w, readWord s.dout (4 * w))) s) := by
  have hadm : ∀ a ∈ outAddrs olen, admittedReg 4 a = .ok (.dout (a - 0x800)) := by
    intro a ha
    obtain ⟨w, hw, rfl⟩ := List.mem_map.1 ha
    rw [List.mem_range] at hw
    rw [admittedReg_dout (by omega), Nat.add_sub_cancel_left]
  rw [hostReads_eq (fun a => .dout (a - 0x800)) _ s hadm]
  simp only [outAddrs, List.map_map, Function.comp_def, Nat.add_sub_cancel_left, readValue_idle hb, regWord]
  rfl

/-- `OUT` reads `OLEN` and then `DOUT`, and takes the first `OLEN` bytes (R98). -/
theorem readOut_eq {s : State} (hs : Sizes s) (hb : s.busy = false) :
    readOut s = .ok (s.dout.take s.olen.toNat,
      withHost []
        (s.returned ++ (0x014, s.olen.setWidth 32) ::
          (List.range ((s.olen.toNat + 3) / 4)).map fun w => (0x800 + 4 * w, readWord s.dout (4 * w))) s) := by
  obtain ⟨hm, -, hmax⟩ := doutMax_bounds s.params hs.params
  have holen := hs.olen
  have hval : (s.olen.setWidth 32).toNat = s.olen.toNat := by
    rw [BitVec.toNat_setWidth]
    exact Nat.mod_eq_of_lt (s.olen.isLt.trans (by decide))
  have hdout := hostReads_outAddrs (s := withHost [] (s.returned ++ [(0x014, s.olen.setWidth 32)]) s) hb
    (olen := s.olen.toNat) (by omega)
  have hbytes := take_map_getD s.dout s.olen.toNat (4 * ((s.olen.toNat + 3) / 4)) (by omega) (hs.dout ▸ holen)
  simp only [withHost] at hdout
  simp only [readOut, hostReadWord_eq 0x014 .olen s rfl, readValue_idle hb, regWord, Bind.bind, Except.bind, hval, hdout,
    flatMap_wordBytes_readWord, hbytes, List.append_assoc, List.singleton_append]
  rfl

theorem runStmt_out {s : State} (v : View) (name : String) (env : HostEnv) (hs : Sizes s) (hb : s.busy = false) :
    runStmt v (.out name) s env = .ok
      (withHost []
          (s.returned ++ (0x014, s.olen.setWidth 32) ::
            (List.range ((s.olen.toNat + 3) / 4)).map fun w => (0x800 + 4 * w, readWord s.dout (4 * w))) s,
        { env with names := (name, s.dout.take s.olen.toNat) :: env.names }) := by
  simp only [runStmt, readOut_eq hs hb, Bind.bind, Except.bind]

theorem runStmt_expect {s : State} {r : MapReg} (v : View) (w : Word) (env : HostEnv)
    (h : admittedReg 4 (regAddr r) = .ok r) :
    runStmt v (.expect r w) s env = .ok
      (withHost [] (s.returned ++ [(regAddr r, readValue s r)]) s,
        { env with claims := env.claims ++ [decide (readValue s r = w)] }) := by
  simp only [runStmt, hostReadWord_eq _ r s h, Bind.bind, Except.bind]
  rfl

end Sys2Proof.Machine
end

section
/-! SUPPORT. The statements `KEY` and `KSN` of a host script (R98), and a command's run with its result carried to the
host. -/

namespace Sys2Proof.Machine

/-! ### Storing a byte sequence word by word (R64, R98) -/

/-- The array after these words are written to it from byte `off` on. -/
def storeWords (arr : List Byte) (off : Nat) : List Word → List Byte
  | [] => arr
  | w :: ws => storeWords (writeWord arr off w) (off + 4) ws

/-- The array after all the words of `b` are written to it from its first byte on (R98). -/
def loadArray (arr b : List Byte) : List Byte := storeWords arr 0 (packWords b ((b.length + 3) / 4))

@[simp] theorem storeWords_length (arr : List Byte) (off : Nat) (ws : List Word) :
    (storeWords arr off ws).length = arr.length := by
  induction ws generalizing arr off with
  | nil => rfl
  | cons w ws ih => rw [storeWords, ih, writeWord_length]

@[simp] theorem loadArray_length (arr b : List Byte) : (loadArray arr b).length = arr.length := storeWords_length _ _ _

@[simp] theorem packWords_length (b : List Byte) (n : Nat) : (packWords b n).length = n := by
  induction n generalizing b with
  | zero => rfl
  | succ n ih => rw [packWords, List.length_cons, ih]

@[simp] theorem writeWords_length (base : Nat) (ws : List Word) : (writeWords base ws).length = ws.length := by
  induction ws generalizing base with
  | nil => rfl
  | cons w ws ih => rw [writeWords, List.length_cons, ih, List.length_cons]

/-- Bytes before the first word stay. -/
theorem storeWords_before (arr : List Byte) (off j : Nat) (ws : List Word) (h : j < off) :
    (storeWords arr off ws)[j]? = arr[j]? := by
  induction ws generalizing arr off with
  | nil => rfl
  | cons w ws ih => rw [storeWords, ih _ _ (by omega), writeWord_frame arr off j w (.inl h)]

/-- A word written as `readWord b 0` holds the first bytes of `b`. -/
theorem writeWord_readWord_getElem? (arr b : List Byte) (off j : Nat) (hj : j < 4) (hin : off + j < arr.length)
    (hb : j < b.length) : (writeWord arr off (readWord b 0))[off + j]? = b[j]? := by
  have hget : (writeWord arr off (readWord b 0)).getD (off + j) 0#8 = b.getD j 0#8 := by
    rw [writeWord_getD arr off _ j hj hin, ← bytesN_four_getD _ j hj, ← wordBytes, wordBytes_readWord]
    simp [List.getD_eq_getElem?_getD, List.getElem?_range hj]
  have hin' : off + j < (writeWord arr off (readWord b 0)).length := by rwa [writeWord_length]
  rw [List.getD_eq_getElem _ _ hin', List.getD_eq_getElem _ _ hb] at hget
  rw [List.getElem?_eq_getElem hin', List.getElem?_eq_getElem hb, hget]

/-- Of the words of a byte sequence, those bytes that lie inside the array are stored (R64). -/
theorem storeWords_packWords_getElem? (arr b : List Byte) (off n j : Nat) (hn : j < 4 * n) (hin : off + j < arr.length)
    (hb : j < b.length) : (storeWords arr off (packWords b n))[off + j]? = b[j]? := by
  induction n generalizing arr b off j with
  | zero => omega
  | succ n ih =>
    rw [packWords, storeWords]
    by_cases hj : j < 4
    · rw [storeWords_before _ _ _ _ (by omega), writeWord_readWord_getElem? arr b off j hj hin hb]
    · obtain ⟨k, rfl⟩ := Nat.exists_eq_add_of_le (Nat.le_of_not_lt hj)
      rw [← Nat.add_assoc, ih _ (b.drop 4) (off + 4) k (by omega) (by rw [writeWord_length]; omega)
        (by rw [List.length_drop]; omega), List.getElem?_drop]

/-- A byte sequence that fits is stored whole. -/
theorem take_loadArray (arr b : List Byte) (h : b.length ≤ arr.length) : (loadArray arr b).take b.length = b := by
  refine List.ext_getElem? fun j => ?_
  rw [List.getElem?_take]
  split
  next hj =>
    have hget := storeWords_packWords_getElem? arr b 0 ((b.length + 3) / 4) j (by omega) (by omega) hj
    rwa [Nat.zero_add] at hget
  next hj => exact (List.getElem?_eq_none (by omega)).symm

/-! ### The operand arrays at their addresses (R21, R24 to R26, R62) -/

/-- The operand registers that are arrays. -/
inductive OperandArray where
  | key
  | ksn
  | iv
  | din

namespace OperandArray

/-- The row of the register map for the word at byte `off`. -/
def reg : OperandArray → Nat → MapReg
  | .key => .key
  | .ksn => .ksn
  | .iv => .iv
  | .din => .din

/-- The bytes mapped for the array (R62). -/
def room : OperandArray → Nat
  | .key => 0x18
  | .ksn => 0x0C
  | .iv => 0x08
  | .din => 0x400

/-- The contents of the array. -/
def bytes : OperandArray → State → List Byte
  | .key => State.key
  | .ksn => State.ksn
  | .iv => State.iv
  | .din => State.din

/-- The state with other contents of the array. -/
def put : OperandArray → List Byte → State → State
  | .key, b, s => { s with key := b }
  | .ksn, b, s => { s with ksn := b }
  | .iv, b, s => { s with iv := b }
  | .din, b, s => { s with din := b }

theorem admittedReg_reg (a : OperandArray) {off : Nat} (hal : off % 4 = 0) (h : off < a.room) :
    admittedReg 4 (regAddr (a.reg off)) = .ok (a.reg off) := by
  cases a <;> exact admittedReg_regAddr h (by simp only [reg, regAddr]; omega)

theorem storeReg_reg (a : OperandArray) (off : Nat) (v : Word) (s : State) :
    storeReg (a.reg off) v s = a.put (writeWord (a.bytes s) off v) s := by
  cases a <;> rfl

theorem reg_ne_cmd (a : OperandArray) (off : Nat) : a.reg off ≠ .cmd := by cases a <;> exact nofun

theorem regAddr_reg_add (a : OperandArray) (off n : Nat) : regAddr (a.reg off) + n = regAddr (a.reg (off + n)) := by
  cases a <;> simp only [reg, regAddr, Nat.add_assoc]

end OperandArray

/-- The word writes of an array statement store their words one after the other (R67, R98). -/
theorem runSteps_writeWords (a : OperandArray) (ws : List Word) (off : Nat) (s : State) (rest : List Event)
    (hb : s.busy = false) (hal : off % 4 = 0) (hfit : off + 4 * ws.length ≤ a.room)
    (hs : s.agenda = writeWords (regAddr (a.reg off)) ws ++ rest) :
    runSteps ws.length s = .next { a.put (storeWords (a.bytes s) off ws) s with agenda := rest } := by
  induction ws generalizing off s with
  | nil =>
    obtain rfl : s.agenda = rest := hs
    cases a <;> rfl
  | cons w ws ih =>
    rw [List.length_cons] at hfit
    rw [writeWords, List.cons_append, a.regAddr_reg_add] at hs
    have hstep : step s = .next (a.put (writeWord (a.bytes s) off w)
        { s with agenda := writeWords (regAddr (a.reg (off + 4))) ws ++ rest }) := by
      rw [step_cons s _ _ hs]
      have hwrite := hostWrite_idle (s := { s with agenda := writeWords (regAddr (a.reg (off + 4))) ws ++ rest }) hb
        (a.admittedReg_reg hal (by omega)) (a.reg_ne_cmd off) w
      rw [a.storeReg_reg] at hwrite
      refine hwrite.trans ?_
      cases a <;> rfl
    rw [List.length_cons, runSteps, hstep]
    dsimp only
    rw [ih (off + 4) _ (by cases a <;> exact hb) (by omega) (by omega) (by cases a <;> rfl)]
    cases a <;> rfl

/-- An array statement loads its array; what follows in the statement happens after it (R98). -/
theorem hostDo_writeArray (a : OperandArray) (b : List Byte) (es : List Event) (s : State) (hb : s.busy = false)
    (hfit : 4 * ((b.length + 3) / 4) ≤ a.room) :
    hostDo (writeArray (regAddr (a.reg 0)) b ++ es) s = hostDo es (a.put (loadArray (a.bytes s) b) s) := by
  have hrun := runSteps_writeWords a (packWords b ((b.length + 3) / 4)) 0
    { s with agenda := writeArray (regAddr (a.reg 0)) b ++ es } es hb rfl (by rw [packWords_length]; omega) rfl
  have hscript : runScript (writeArray (regAddr (a.reg 0)) b ++ es) s =
      runScript es (a.put (loadArray (a.bytes s) b) s) := by
    rw [runScript, List.length_append, writeArray, writeWords_length, ← writeArray, runSteps_add hrun, runScript]
    cases a <;> rfl
  rw [hostDo, hostDo, hscript]

/-! ### `KEY` and `KSN` (R98) -/

theorem hostDo_stmtKey {s : State} (hb : s.busy = false) (b : List Byte) (hlen : b.length ≤ 24) :
    hostDo (stmtKey b) s =
      .ok { s with agenda := [], key := loadArray s.key b, klen := (BitVec.ofNat 32 b.length).setWidth 5 } := by
  refine (hostDo_writeArray .key b _ s hb (by simp only [OperandArray.room]; omega)).trans ?_
  rw [hostDo_single]
  exact hostWrite_idle (s := { s with key := loadArray s.key b, agenda := [] }) (addr := 0x00C) (r := .klen) hb rfl nofun _

theorem hostDo_stmtKsn {s : State} (hb : s.busy = false) (b : List Byte) (hlen : b.length = 10) :
    hostDo (stmtKsn b) s = .ok { s with agenda := [], ksn := loadArray s.ksn b } := by
  have h := hostDo_writeArray .ksn b [] s hb (by simp only [OperandArray.room]; omega)
  rw [List.append_nil] at h
  exact h

/-- What every step keeps, a list of accesses keeps. -/
theorem inv_hostDo {es : List Event} {s t : State} (hinv : s.inv = true) (h : hostDo es s = .ok t) : t.inv = true :=
  inv_runSteps (s := { s with agenda := es }) _ hinv ((hostDo_eq_ok es s t).1 h)

/-- An idle block of the invariant that holds these operands (R21, R24), between two statements of a script. -/
structure Holds (key ksn : List Byte) (s : State) : Prop where
  inv : s.inv = true
  busy : s.busy = false
  agenda : s.agenda = []
  keyOperand : keyOperand s = key
  klen : s.klen.toNat = key.length
  ksn : s.ksn = ksn

/-- The script ends, with its last state and what the host then holds in `Q`. -/
def EndsIn (v : View) (script : List Stmt) (s : State) (env : HostEnv) (Q : State → HostEnv → Prop) : Prop :=
  ∃ t env', runStmts v script s env = .ok (t, env') ∧ Q t env'

section
variable {v : View} {s : State} {env : HostEnv} {rest : List Stmt} {Q : State → HostEnv → Prop}

theorem endsIn_nil (h : Q s env) : EndsIn v [] s env Q := ⟨s, env, rfl, h⟩

/-- A statement that ends, and then the rest of the script. -/
theorem endsIn_cons {st : Stmt} {t : State} {env' : HostEnv} (h : runStmt v st s env = .ok (t, env'))
    (hrest : EndsIn v rest t env' Q) : EndsIn v (st :: rest) s env Q := by
  unfold EndsIn
  rw [runStmts_cons, h]
  exact hrest

theorem runStmt_key {src : Source} {b : List Byte} {t : State} (hsrc : sourceBytes env src = .ok b)
    (hlen : b.length ≤ 24) (h : hostDo (stmtKey b) s = .ok t) : runStmt v (.key src) s env = .ok (t, env) := by
  simp only [runStmt, hsrc, writeChecked, hlen, h, Bind.bind, Except.bind, decide_true, if_true]

theorem runStmt_ksn {b : List Byte} {t : State} (hlen : b.length = 10) (h : hostDo (stmtKsn b) s = .ok t) :
    runStmt v (.ksn b) s env = .ok (t, env) := by
  simp only [runStmt, writeChecked, hlen, h, Bind.bind, Except.bind, beq_self_eq_true, if_true]

/-- `KEY` gives the block its key operand and keeps its KSN. -/
theorem endsIn_key {src : Source} {b : List Byte} (hinv : s.inv = true) (hb : s.busy = false)
    (hsrc : sourceBytes env src = .ok b) (hlen : b.length ≤ 24) (hrest : ∀ t, Holds b s.ksn t → EndsIn v rest t env Q) :
    EndsIn v (.key src :: rest) s env Q := by
  have hdo := hostDo_stmtKey hb b hlen
  have hklen : ((BitVec.ofNat 32 b.length).setWidth 5).toNat = b.length := by
    rw [BitVec.toNat_setWidth, BitVec.toNat_ofNat]
    omega
  refine endsIn_cons (runStmt_key hsrc hlen hdo) (hrest _ ⟨inv_hostDo hinv hdo, hb, rfl, ?_, hklen, rfl⟩)
  rw [keyOperand, hklen]
  exact take_loadArray s.key b (by rw [((inv_iff_idle s hb).1 hinv).sizes.key]; exact hlen)

/-- `KSN` gives the block its KSN and keeps its key operand. -/
theorem Holds.endsIn_ksn {key ksn b : List Byte} (h : Holds key ksn s) (hlen : b.length = 10)
    (hrest : ∀ t, Holds key b t → EndsIn v rest t env Q) : EndsIn v (.ksn b :: rest) s env Q := by
  have hdo := hostDo_stmtKsn h.busy b hlen
  have hksn : s.ksn.length = b.length := by rw [((inv_iff_idle s h.busy).1 h.inv).sizes.ksn, hlen]
  refine endsIn_cons (runStmt_ksn hlen hdo)
    (hrest _ ⟨inv_hostDo h.inv hdo, h.busy, rfl, h.keyOperand, h.klen, ?_⟩)
  have htake := take_loadArray s.ksn b hksn.ge
  rwa [List.take_of_length_le (by rw [loadArray_length, hksn])] at htake

/-- `OUT` gives the host the result under the name and changes no register. -/
theorem endsIn_out {name : String} {r : List Byte} (hinv : s.inv = true) (hb : s.busy = false)
    (hr : s.dout.take s.olen.toNat = r)
    (hrest : ∀ rs, EndsIn v rest (withHost [] rs s) { env with names := (name, r) :: env.names } Q) :
    EndsIn v (.out name :: rest) s env Q := by
  subst hr
  exact endsIn_cons (runStmt_out v name env ((inv_iff_idle s hb).1 hinv).sizes hb) (hrest _)

end

/-! ### `RUN` and `OUT` together (R98) -/

/-- No command's function reads a register that steps 1 and 2 of R94 set. -/
theorem commandResult_beginCommand (i : Instr) (w : Word) (s : State) :
    commandResult i (beginCommand w s) = commandResult i s := by
  cases i <;> rfl

/-- The end of a command that passes its start checks and computes `r` (R246). -/
theorem exec_eq_deliver {i : Instr} {s : State} {r : List Byte} (hb : s.busy = false) (he : startError i s = none)
    (hi : i ≠ .clear) (hr : commandResult i s = .ok r) :
    exec i s = .next (deliver r (beginCommand (encode i) s)) := by
  rw [exec_eq_runCommand, runCommand_started i _ s hb he, commandResult_beginCommand, hr,
    commandOperands_of_ne_clear hi, conclude_ok]

/-- `DOUT[0..OLEN-1]` holds what a command delivered (R27). -/
theorem take_dout_deliver (r : List Byte) {s : State} (hs : Sizes s) (hr : r.length ≤ s.params.doutMax) :
    (deliver r s).dout.take (deliver r s).olen.toNat = r := by
  obtain ⟨hm, -, hmax⟩ := doutMax_bounds s.params hs.params
  have holen : (deliver r s).olen.toNat = r.length := by
    rw [deliver_olen, BitVec.toNat_ofNat]
    exact Nat.mod_eq_of_lt (by omega)
  rw [holen, deliver_dout, overlay, List.take_left]

/-- A command that computes `r` and its `OUT`, in the functional view: the host has `r` under the name, the operands stay,
and one poll is used up (R98, R318). -/
theorem Holds.endsIn_run_out {key ksn r : List Byte} {s : State} {env : HostEnv} {rest : List Stmt}
    {Q : State → HostEnv → Prop} {i : Instr} {name : String} {p : Nat} {ps : List Nat} (h : Holds key ksn s)
    (hi : i ≠ .clear) (he : startError i s = none) (hr : commandResult i s = .ok r) (hp : env.polls = p :: ps)
    (hrest : ∀ t, Holds key ksn t → t.err = false →
      EndsIn .functional rest t { env with names := (name, r) :: env.names, polls := ps } Q) :
    EndsIn .functional (.run i :: .out name :: rest) s env Q := by
  have hidle := (inv_iff_idle s h.busy).1 h.inv
  have hexec := exec_eq_deliver h.busy he hi hr
  have hinv := inv_exec i h.inv hexec
  have hpub := publishable_commandResult i s hidle.sizes he
  rw [hr] at hpub
  have htake := take_dout_deliver r (begun_beginCommand (encode i) hidle).quiet.sizes hpub
  have hself : ({ s with agenda := [] } : State) = s := by rw [← h.agenda]
  obtain ⟨k, -, hk, hrun⟩ := runStmt_run_ends (v := .functional) (env := env) h.inv h.busy
    ((congrArg (exec i) hself).trans hexec) (by simp [hp]) (.inl rfl)
  obtain rfl := hk rfl
  rw [hp, Nat.zero_add, List.drop_one, List.tail_cons] at hrun
  exact endsIn_cons hrun (endsIn_out hinv h.busy htake fun rs =>
    hrest (withHost [] rs _) ⟨hinv, h.busy, rfl, h.keyOperand, h.klen, h.ksn⟩ rfl)

/-! ### `deriveKey` by stages (R99) -/

section
variable {key ksn : List Byte} {s : State}

theorem Holds.startError_deriveIpek (h : Holds key ksn s) (hk : key.length = 16 ∨ key.length = 24) :
    startError .deriveIpek s = none :=
  startError_none .deriveIpek s (by simpa [legalKlen, h.klen] using hk) rfl

theorem Holds.startError_deriveKey (h : Holds key ksn s) (hk : key.length = 16 ∨ key.length = 24) :
    startError .deriveKey s = none :=
  startError_none .deriveKey s (by simpa [legalKlen, h.klen] using hk) rfl

theorem Holds.startError_deriveWk (h : Holds key ksn s) (hk : key.length = 16) : startError .deriveWk s = none :=
  startError_none .deriveWk s (by simpa [legalKlen, h.klen] using hk) rfl

theorem Holds.startError_deriveSk (h : Holds key ksn s) (hk : key.length = 16) : startError .deriveSk s = none :=
  startError_none .deriveSk s (by simpa [legalKlen, h.klen] using hk) rfl

theorem Holds.commandResult_deriveIpek (h : Holds key ksn s) : commandResult .deriveIpek s = .ok (deriveIPEK key ksn) := by
  rw [commandResult, h.keyOperand, h.ksn]

theorem Holds.commandResult_deriveKey (h : Holds key ksn s) : commandResult .deriveKey s = .ok (deriveKey key ksn) := by
  rw [commandResult, h.keyOperand, h.ksn]

theorem Holds.commandResult_deriveWk (h : Holds key ksn s) (hk : key.length = 16) :
    commandResult .deriveWk s = .ok (deriveWorkingKey ksn key) := by
  rw [commandResult, take_key_eq_keyOperand (.inl rfl) (h.startError_deriveWk hk), h.keyOperand, h.ksn]

theorem Holds.commandResult_deriveSk (h : Holds key ksn s) (hk : key.length = 16) :
    commandResult .deriveSk s = .ok (deriveSessionKey key) := by
  rw [commandResult, take_key_eq_keyOperand (.inr rfl) (h.startError_deriveSk hk), h.keyOperand]

theorem sourceBytes_name (n : String) (b : List Byte) (names : List (String × List Byte)) (claims : List Bool)
    (polls : List Nat) :
    sourceBytes { names := (n, b) :: names, claims := claims, polls := polls } (.name n) = .ok b := by
  simp only [sourceBytes, List.lookup_cons_self]

end

end Sys2Proof.Machine
end

section
/-! The statements of the encoding family: O2, O54, O7, O60, O1, O5, O6. -/

open Sys2Proof Sys2Proof.Machine

/-- Settles O2: the command words decode by `decode_encode`, and a decoded word has its command's three fields. -/
theorem decodeAndEncodeAgree : Obligations.DecodeAndEncodeAgree :=
  ⟨fun i _ => decode_encode i, fun _ _ => eq_encode_of_decode⟩

/-- Settles O54: the block's operands and the host's names after each statement of the two scripts; each `KEY` carries
the result named just before it. -/
theorem deriveKeyInThreeCommands : Obligations.DeriveKeyInThreeCommands := by
  intro s bdk ksn polls hinv hb hbdk hksn hpolls script hscript
  obtain ⟨p1, p2, p3, ps, rfl⟩ : ∃ p1 p2 p3 ps, polls = p1 :: p2 :: p3 :: ps := by
    match polls, hpolls with
    | p1 :: p2 :: p3 :: ps, _ => exact ⟨p1, p2, p3, ps, rfl⟩
  have hipek := deriveIPEK_length bdk ksn
  have hwk := deriveWorkingKey_length ksn (deriveIPEK bdk ksn) hipek
  change EndsIn .functional script s _ fun t env => t.err = false ∧ env.names.lookup "sk" = some (deriveKey bdk ksn)
  simp only [List.mem_cons, List.not_mem_nil, or_false] at hscript
  rcases hscript with rfl | rfl
  · refine endsIn_key hinv hb (b := bdk) rfl (by omega) fun s1 h1 => h1.endsIn_ksn hksn fun s2 h2 => ?_
    refine h2.endsIn_run_out nofun (h2.startError_deriveKey hbdk) h2.commandResult_deriveKey rfl fun s3 _ herr => ?_
    exact endsIn_nil ⟨herr, List.lookup_cons_self⟩
  · refine endsIn_key hinv hb (b := bdk) rfl (by omega) fun s1 h1 => h1.endsIn_ksn hksn fun s2 h2 => ?_
    refine h2.endsIn_run_out nofun (h2.startError_deriveIpek hbdk) h2.commandResult_deriveIpek rfl fun s3 h3 _ => ?_
    refine endsIn_key h3.inv h3.busy (sourceBytes_name _ _ _ _ _) (by omega) fun s4 h4 => ?_
    rw [h3.ksn] at h4
    refine h4.endsIn_run_out nofun (h4.startError_deriveWk hipek) (h4.commandResult_deriveWk hipek) rfl fun s5 h5 _ => ?_
    refine endsIn_key h5.inv h5.busy (sourceBytes_name _ _ _ _ _) (by omega) fun s6 h6 => ?_
    refine h6.endsIn_run_out nofun (h6.startError_deriveSk hwk) (h6.commandResult_deriveSk hwk) rfl fun s7 _ herr => ?_
    exact endsIn_nil ⟨herr, List.lookup_cons_self⟩

/-- Settles O7: each clause names the error `startError` finds, and its code. -/
theorem startErrorsInOrder : Obligations.StartErrorsInOrder := by
  intro s i hb
  refine ⟨fun hk => ?_, fun hk hd => ?_, fun hk hd hl => ?_, fun hk hd hl hdl => ?_⟩
  · exact exec_of_startError hb (startError_keyTooLong hk)
  · exact exec_of_startError hb (startError_dataTooLong hk hd)
  · exact exec_of_startError hb (startError_illegalKlen hk hd hl)
  · exact exec_of_startError hb (startError_illegalDlen hk hd hl hdl)

/-- Settles O60: `RUN` by its polls, with and without turns enough for the command; `OUT` and `EXPECT` by their reads. -/
theorem scriptStatements : Obligations.ScriptStatements := by
  intro s env v hinv hb
  refine ⟨fun i u h hne hturns => ?_, fun _ he hturns => runStmt_run_stillPolling hinv hb he hturns,
    fun name => runStmt_out v name env ((inv_iff_idle s hb).1 hinv).sizes hb, fun _ w hadm => runStmt_expect v w env hadm⟩
  obtain ⟨-, -, hagenda, -⟩ := exec_ends (s := { s with agenda := [] }) hb h
  simpa only [withHost_nil hagenda] using runStmt_run_ends hinv hb h hne hturns

/-- Settles O1: each word is the encoded word of its row. -/
theorem decodeReadsListedWords : Obligations.DecodeReadsListedWords :=
  ⟨decode_encode .nop, decode_encode .encAes, decode_encode .decTdes, decode_encode .and, decode_encode .encReg,
    decode_encode .decryptTrack⟩

/-- Settles O5: the write is the start sequence, whose checks pass. -/
theorem cmdWriteStartsEngine : Obligations.CmdWriteStartsEngine := by
  intro s i rest ha hb hk hd
  have hstart : startError i { s with agenda := rest } = none := startError_none i s hk hd
  have hstep := step_cmdWrite s (encode i) rest hb
  rw [← ha, startCommand_encode hstart, acceptCommand, firstStage_eq] at hstep
  refine hstep.trans ?_
  simp only [loadsCurkey_iff]
  rfl

/-- Settles O6: row by row of R95 and R96. -/
theorem operandTables : Obligations.OperandTables := by
  intro i n m
  refine ⟨?_, ?_, ?_, fun hi => ?_, fun hi => ?_, fun hi => ?_, fun hi => ?_, fun hi => ?_, fun hi => ?_, fun hi => ?_,
    fun hi => ?_, fun hi => ?_, fun hi => ?_, fun h => legalDlen_of_not_readsDin h m n⟩
  · cases i <;> decide
  · cases i <;> decide
  · cases i <;> decide
  · fin_cases hi <;> exact beq_iff_eq
  · fin_cases hi <;> exact beq_iff_eq
  · fin_cases hi <;> exact beq_iff_eq
  · fin_cases hi <;> simp [legalKlen]
  · subst hi; simp [legalKlen]
  · fin_cases hi <;> exact decide_eq_true_iff
  · fin_cases hi <;> rfl
  · fin_cases hi <;> exact decide_eq_true_iff
  · fin_cases hi <;> exact wholeBlocks_iff 8 m n
  · fin_cases hi <;> exact wholeBlocks_iff 16 m n

end

section
/-! SUPPORT. `xor` and `and` byte by byte (R110 to R112), their laws (R113, R114), and the end of a command that computes
a result (R246). -/

namespace Sys2Proof.Machine

/-! ### Left padding (R110) -/

/-- An operand that is long enough is not padded. -/
theorem lpad_of_length_le {a : List Byte} {n : Nat} (h : n ≤ a.length) : lpad a n = a := by
  rw [lpad, Nat.sub_eq_zero_of_le h, zeros_zero, List.nil_append]

/-- The bytes of a padded sequence: zeros in front, then the bytes of the sequence. -/
theorem lpad_getElem? (a : List Byte) {n i : Nat} (h : i < n) :
    (lpad a n)[i]? = some (if i < n - a.length then 0#8 else a.getD (i - (n - a.length)) 0#8) := by
  rw [lpad, zeros, List.getElem?_append, List.length_replicate]
  split
  next hpad => exact List.getElem?_replicate_of_lt hpad
  next hpad =>
    have hin : i - (n - a.length) < a.length := by omega
    rw [List.getD_eq_getElem?_getD, List.getElem?_eq_getElem hin, Option.getD_some]

/-! ### The bytes of `xor` and `and` (R111, R112) -/

/-- A bytewise operation acts on the two padded sequences place by place. -/
theorem zipWith_lpad_getElem? (f : Byte → Byte → Byte) (a b : List Byte) {n i : Nat} (h : i < n) :
    ((lpad a n).zipWith f (lpad b n))[i]? =
      some (f (if i < n - a.length then 0#8 else a.getD (i - (n - a.length)) 0#8)
        (if i < n - b.length then 0#8 else b.getD (i - (n - b.length)) 0#8)) := by
  rw [List.getElem?_zipWith, lpad_getElem? a h, lpad_getElem? b h]

/-! ### The laws of `xor` and `and` (R113, R114) -/

theorem xorBytes_of_length_eq {a b : List Byte} (h : a.length = b.length) :
    xorBytes a b = a.zipWith (fun x y => x ^^^ y) b := by
  rw [xorBytes, lpad_of_length_le (by omega), lpad_of_length_le (by omega)]

theorem andBytes_of_length_eq {a b : List Byte} (h : a.length = b.length) :
    andBytes a b = a.zipWith (fun x y => x &&& y) b := by
  rw [andBytes, lpad_of_length_le (by omega), lpad_of_length_le (by omega)]

/-- Padding the shorter operand beforehand changes nothing. -/
theorem xorBytes_eq_xorBytes_lpad (a b : List Byte) :
    xorBytes a b = xorBytes (lpad a (max a.length b.length)) (lpad b (max a.length b.length)) :=
  (xorBytes_of_length_eq (by simp only [lpad_length]; omega)).symm

/-- R114 (a). -/
theorem xorBytes_comm (a b : List Byte) : xorBytes a b = xorBytes b a := by
  rw [xorBytes, xorBytes, Nat.max_comm]
  exact List.zipWith_comm_of_comm fun x y => BitVec.xor_comm x y

/-- R114 (a). -/
theorem andBytes_comm (a b : List Byte) : andBytes a b = andBytes b a := by
  rw [andBytes, andBytes, Nat.max_comm]
  exact List.zipWith_comm_of_comm fun x y => BitVec.and_comm x y

/-- R113. -/
theorem xorBytes_self (a : List Byte) : xorBytes a a = zeros a.length := by
  rw [xorBytes_of_length_eq rfl, List.zipWith_self]
  simp [zeros]

/-- R113. -/
theorem andBytes_self (a : List Byte) : andBytes a a = a := by
  rw [andBytes_of_length_eq rfl, List.zipWith_self]
  simp

/-- R113, for operands of one length. -/
theorem xorBytes_cancel_of_length_eq {a b : List Byte} (h : a.length = b.length) :
    xorBytes (xorBytes a b) b = a := by
  rw [xorBytes_of_length_eq (by simp [h]), xorBytes_of_length_eq h]
  refine List.ext_getElem (by simp [h]) fun i _ _ => ?_
  simp

/-- R114 (e): both operands padded beforehand, the law is R113's. -/
theorem xorBytes_cancel (a b : List Byte) : xorBytes (xorBytes a b) b = lpad a (max a.length b.length) := by
  have hn : max (xorBytes a b).length b.length = max a.length b.length := by rw [xorBytes_length]; omega
  rw [xorBytes_eq_xorBytes_lpad (xorBytes a b), hn, lpad_of_length_le (xorBytes_length a b).ge,
    xorBytes_eq_xorBytes_lpad a b]
  exact xorBytes_cancel_of_length_eq (by simp only [lpad_length]; omega)

theorem zipWith_zeros (f : Byte → Byte → Byte) (l : List Byte) :
    l.zipWith f (zeros l.length) = l.map fun x => f x 0#8 := by
  induction l with
  | nil => rfl
  | cons x l ih => exact congrArg (f x 0#8 :: ·) ih

/-- A bytewise operation with a padded second operand: the leading bytes of the first meet the padding, the others meet
the operand. -/
theorem zipWith_lpad_right (f : Byte → Byte → Byte) (a b : List Byte) :
    a.zipWith f (lpad b a.length) =
      (a.take (a.length - b.length)).map (fun x => f x 0#8) ++ (a.drop (a.length - b.length)).zipWith f b := by
  have htake : (a.take (a.length - b.length)).length = a.length - b.length := by simp
  have hzeros := zipWith_zeros f (a.take (a.length - b.length))
  rw [htake] at hzeros
  rw [← hzeros, ← List.zipWith_append (by rw [htake, zeros_length]), List.take_append_drop, lpad]

/-- R114 (c) for `xor`: a shorter second operand acts on the last bytes only. -/
theorem xorBytes_of_length_le {a b : List Byte} (h : b.length ≤ a.length) :
    xorBytes a b = a.take (a.length - b.length) ++ xorBytes (a.drop (a.length - b.length)) b := by
  rw [xorBytes, Nat.max_eq_left h, lpad_self, zipWith_lpad_right,
    xorBytes_of_length_eq (by rw [List.length_drop]; omega)]
  simp

/-- R114 (c) for `and`: a shorter second operand zeroes the bytes in front of those it acts on. -/
theorem andBytes_of_length_le {a b : List Byte} (h : b.length ≤ a.length) :
    andBytes a b = zeros (a.length - b.length) ++ andBytes (a.drop (a.length - b.length)) b := by
  rw [andBytes, Nat.max_eq_left h, lpad_self, zipWith_lpad_right,
    andBytes_of_length_eq (by rw [List.length_drop]; omega)]
  simp [zeros]

/-- R114 (d). -/
theorem xorBytes_nil (a : List Byte) : xorBytes a [] = a := by
  rw [xorBytes_of_length_le (b := []) (Nat.zero_le _)]
  simp [xorBytes_self]

/-- R114 (d). -/
theorem andBytes_nil (a : List Byte) : andBytes a [] = zeros a.length := by
  rw [andBytes_of_length_le (b := []) (Nat.zero_le _)]
  simp [andBytes_self]

/-! ### The end of a command that computes a result (R246, R286) -/

section
variable {i : Instr} {s : State} {r : List Byte}

/-- The result overlays a `DOUT` that the start of the command has cleared. -/
theorem deliver_beginCommand (r : List Byte) (w : Word) (s : State) :
    deliver r (beginCommand w s) = endedWell w r s := by
  rw [deliver, beginCommand_dout, overlay_zeros]
  rfl

/-- A command that passes its start checks and computes `r` leaves its word, the flags and `r`, and nothing else. -/
theorem exec_eq_endedWell (hb : s.busy = false) (he : startError i s = none) (hi : i ≠ .clear)
    (hr : commandResult i s = .ok r) : exec i s = .next (endedWell (encode i) r s) := by
  rw [exec_eq_deliver hb he hi hr, deliver_beginCommand]

/-- R290: of two operands that are too long, `KEY` is found first. -/
theorem exec_keyTooLong (hb : s.busy = false) (hi : readsKey i = true) (hk : 24 < s.klen.toNat) :
    exec i s = .next (endedInError (encode i) 0x0111#16 s) :=
  exec_of_startError hb (startError_keyTooLong ⟨hi, hk⟩)

theorem exec_dataTooLong (hb : s.busy = false) (hi : readsDin i = true) (hk : s.klen.toNat ≤ 24)
    (hd : s.params.dataMax < s.dlen.toNat) : exec i s = .next (endedInError (encode i) 0x0211#16 s) :=
  exec_of_startError hb (startError_dataTooLong (fun h => absurd h.2 hk.not_gt) ⟨hi, hd⟩)

/-- R21, R26: the operand lengths are `KLEN` and `DLEN` where these fit the registers. -/
theorem operand_lengths (hs : Sizes s) (hk : s.klen.toNat ≤ 24) (hd : s.dlen.toNat ≤ s.params.dataMax) :
    (dataOperand s).length = s.dlen.toNat ∧ (keyOperand s).length = s.klen.toNat :=
  ⟨(dataOperand_length s hs).trans (Nat.min_eq_left hd), (keyOperand_length s hs).trans (Nat.min_eq_left hk)⟩

end

end Sys2Proof.Machine
end

section
/-! The statements of the byte-sequence family: O10, O11, O12. -/

open Sys2Proof Sys2Proof.Machine

/-- Settles O10: both commands accept every `KLEN` and `DLEN` that fits, and a longer one is a start error. -/
theorem xorAndCommands : Obligations.XorAndCommands := by
  intro s hb
  refine ⟨fun hk hd => ⟨?_, ?_, fun hinv => ?_⟩, fun hk => ⟨?_, ?_⟩, fun hk hd => ⟨?_, ?_⟩⟩
  · exact exec_eq_endedWell hb (startError_none .xor s (decide_eq_true hk) (decide_eq_true hd)) nofun rfl
  · exact exec_eq_endedWell hb (startError_none .and s (decide_eq_true hk) (decide_eq_true hd)) nofun rfl
  · obtain ⟨hdata, hkey⟩ := operand_lengths ((inv_iff_idle s hb).1 hinv).sizes hk hd
    rw [xorBytes_length, andBytes_length, ← dataOperand, ← keyOperand, hdata, hkey]
    exact ⟨rfl, rfl⟩
  · exact exec_keyTooLong (i := .xor) hb rfl hk
  · exact exec_keyTooLong (i := .and) hb rfl hk
  · exact exec_dataTooLong (i := .xor) hb rfl hk hd
  · exact exec_dataTooLong (i := .and) hb rfl hk hd

/-- Settles O11: each byte of a bytewise operation on the padded operands. -/
theorem xorAndBytewise : Obligations.XorAndBytewise := fun a b =>
  ⟨xorBytes_length a b, andBytes_length a b, fun _ hi =>
    ⟨zipWith_lpad_getElem? (· ^^^ ·) a b hi, zipWith_lpad_getElem? (· &&& ·) a b hi⟩⟩

/-- Settles O12: law by law. The leading bytes under a shorter operand stand alone in front of the others. -/
theorem xorAndLaws : Obligations.XorAndLaws := by
  intro a b
  refine ⟨xorBytes_self a, andBytes_self a, xorBytes_cancel_of_length_eq, xorBytes_cancel a b, xorBytes_comm a b,
    andBytes_comm a b, xorBytes_nil a, andBytes_nil a, fun h => ⟨?_, ?_⟩⟩
  · rw [xorBytes_of_length_le h.le]
    exact List.take_left' (by simp)
  · rw [andBytes_of_length_le h.le]
    exact List.take_left' (zeros_length _)

end

section
/-! SUPPORT. PKCS7 padding (R138, R139) and ECB (R137) as operations with inverses: what the cipher statements need of
them, whatever the block function. -/

namespace Sys2Proof.Machine

/-! ### PKCS7 (R138, R139) -/

/-- R138: the padding is `B - len(d) mod B` bytes, from 1 to `B`. -/
theorem exists_pkcs7Pad_eq (d : List Byte) {b : Nat} (hb : 0 < b) :
    ∃ p, 1 ≤ p ∧ p ≤ b ∧ pkcs7Pad d b = d ++ List.replicate p (BitVec.ofNat 8 p) ∧ (d.length + p) % b = 0 := by
  have hlt := Nat.mod_lt d.length hb
  refine ⟨b - d.length % b, by omega, Nat.sub_le _ _, rfl, ?_⟩
  rw [← pkcs7Pad_length]
  exact pkcs7Pad_length_mod d b hb

/-- R138: there is one number of padding bytes from 1 to `B` that fills the last block. -/
theorem pkcs7Pad_eq_of_mod_eq_zero {d : List Byte} {b p : Nat} (hp : 1 ≤ p) (hpb : p ≤ b) (h : (d.length + p) % b = 0) :
    pkcs7Pad d b = d ++ List.replicate p (BitVec.ofNat 8 p) := by
  have hlt := Nat.mod_lt d.length (by omega : 0 < b)
  have hsum : (d.length % b + p) % b = 0 := by rwa [Nat.mod_add_mod]
  obtain ⟨k, hk⟩ := Nat.dvd_of_mod_eq_zero hsum
  have hk1 : k = 1 := by
    have h0 : k ≠ 0 := by rintro rfl; omega
    have h2 : k < 2 := by
      by_contra hge
      have := Nat.mul_le_mul_left b (Nat.le_of_not_lt hge)
      omega
    omega
  have hpad : b - d.length % b = p := by rw [hk1, Nat.mul_one] at hk; omega
  rw [pkcs7Pad, hpad]

/-- The last byte of a padded sequence is the padding's value. -/
theorem getD_append_replicate_last (r : List Byte) (x : Byte) {p : Nat} (hp : 1 ≤ p) :
    (r ++ List.replicate p x).getD ((r ++ List.replicate p x).length - 1) 0#8 = x := by
  have hi : (r ++ List.replicate p x).length - 1 = r.length + (p - 1) := by
    rw [List.length_append, List.length_replicate]; omega
  rw [hi, List.getD_eq_getElem?_getD, List.getElem?_append_right (Nat.le_add_right _ _), Nat.add_sub_cancel_left,
    List.getElem?_replicate_of_lt (by omega), Option.getD_some]

/-- R139: what unpadding accepts, and what it leaves. -/
theorem pkcs7Unpad_eq_some_iff {b : Nat} (hb : b ≤ 255) (d r : List Byte) :
    pkcs7Unpad d b = some r ↔ ∃ p, 1 ≤ p ∧ p ≤ b ∧ d = r ++ List.replicate p (BitVec.ofNat 8 p) := by
  unfold pkcs7Unpad
  constructor
  · dsimp only
    split
    next h =>
      obtain ⟨hp, hpb, hdrop⟩ := h
      rintro ⟨⟩
      exact ⟨_, hp, hpb, by rw [← hdrop, List.take_append_drop]⟩
    next => exact nofun
  · rintro ⟨p, hp, hpb, rfl⟩
    have hlast : ((r ++ List.replicate p (BitVec.ofNat 8 p)).getD
        ((r ++ List.replicate p (BitVec.ofNat 8 p)).length - 1) 0#8).toNat = p := by
      rw [getD_append_replicate_last r _ hp, BitVec.toNat_ofNat]
      exact Nat.mod_eq_of_lt (by omega)
    have hlen : (r ++ List.replicate p (BitVec.ofNat 8 p)).length - p = r.length := by simp
    dsimp only
    rw [hlast, hlen, List.drop_left, List.take_left]
    exact if_pos ⟨hp, hpb, rfl⟩

/-- R139 undoes R138. -/
theorem pkcs7Unpad_pkcs7Pad (d : List Byte) {b : Nat} (hpos : 0 < b) (hb : b ≤ 255) :
    pkcs7Unpad (pkcs7Pad d b) b = some d := by
  obtain ⟨p, hp, hpb, hpad, -⟩ := exists_pkcs7Pad_eq d hpos
  exact (pkcs7Unpad_eq_some_iff hb _ d).2 ⟨p, hp, hpb, hpad⟩

/-- R138 undoes R139 on whole blocks. -/
theorem pkcs7Pad_of_pkcs7Unpad {d r : List Byte} {b : Nat} (hb : b ≤ 255) (hmod : d.length % b = 0)
    (h : pkcs7Unpad d b = some r) : pkcs7Pad r b = d := by
  obtain ⟨p, hp, hpb, rfl⟩ := (pkcs7Unpad_eq_some_iff hb d r).1 h
  refine pkcs7Pad_eq_of_mod_eq_zero hp hpb ?_
  rwa [List.length_append, List.length_replicate] at hmod

/-! ### ECB (R137) -/

section
variable {f g : List Byte → List Byte} {b : Nat}

theorem ecbBlocks_succ (f : List Byte → List Byte) (b m : Nat) (d : List Byte) :
    ecbBlocks f b (m + 1) d = f (d.take b) ++ ecbBlocks f b m (d.drop b) := rfl

/-- ECB on blocks of which the first is split off. -/
theorem ecbBlocks_append (f : List Byte → List Byte) {x : List Byte} (hx : x.length = b) (m : Nat) (d : List Byte) :
    ecbBlocks f b (m + 1) (x ++ d) = f x ++ ecbBlocks f b m d := by
  rw [ecbBlocks_succ, List.take_left' hx, List.drop_left' hx]

/-- Where `g` undoes `f` on a block, ECB with `g` undoes ECB with `f` on whole blocks. -/
theorem ecbBlocks_ecbBlocks (hf : ∀ x, x.length = b → (f x).length = b) (hgf : ∀ x, x.length = b → g (f x) = x)
    (m : Nat) (d : List Byte) (hd : d.length = m * b) : ecbBlocks g b m (ecbBlocks f b m d) = d := by
  induction m generalizing d with
  | zero => exact (List.length_eq_zero_iff.1 (by rw [hd, Nat.zero_mul])).symm
  | succ m ih =>
    rw [Nat.succ_mul] at hd
    have htake : (d.take b).length = b := by rw [List.length_take]; omega
    have hdrop : (d.drop b).length = m * b := by rw [List.length_drop]; omega
    rw [ecbBlocks_succ f, ecbBlocks_append g (hf _ htake), hgf _ htake, ih _ hdrop, List.take_append_drop]

theorem ecb_ecb (hf : ∀ x, x.length = b → (f x).length = b) (hgf : ∀ x, x.length = b → g (f x) = x) {d : List Byte}
    (hd : d.length % b = 0) : ecb g b (ecb f b d) = d := by
  have hlen := ecb_length f b hf d hd
  rw [ecb, hlen]
  exact ecbBlocks_ecbBlocks hf hgf _ d (Nat.div_mul_cancel (Nat.dvd_of_mod_eq_zero hd)).symm

/-- The first block of an ECB result is the block function of the first block. -/
theorem take_ecb (hf : ∀ x, x.length = b → (f x).length = b) (hb : 0 < b) {d : List Byte} (hd : b ≤ d.length) :
    (ecb f b d).take b = f (d.take b) := by
  obtain ⟨m, hm⟩ := Nat.exists_eq_add_of_le' (Nat.div_pos hd hb)
  rw [ecb, hm, ecbBlocks_succ]
  exact List.take_left' (hf _ (by rw [List.length_take]; omega))

end

/-- R142: the first block of an encryption is the block encryption of the first block of the data. -/
theorem take_ecbEncrypt {alg : Alg} {key data : List Byte}
    (hE : ∀ x, x.length = blockWidth alg → (blockEncrypt alg key x).length = blockWidth alg)
    (hd : blockWidth alg ≤ data.length) :
    (ecbEncrypt alg key data).take (blockWidth alg) = blockEncrypt alg key (data.take (blockWidth alg)) := by
  have hpad := pkcs7Pad_length data (blockWidth alg)
  rw [ecbEncrypt, take_ecb hE (blockWidth_pos alg) (by omega), pkcs7Pad, List.take_append_of_le_length hd]

end Sys2Proof.Machine
end

section
/-! SUPPORT. DES and 3DES undo themselves (R133, R160 to R173): `FP` undoes `IP`, and the rounds run backwards under the
round keys in reverse. -/

namespace Sys2Proof.Machine

/-! ### Blocks as bit strings (R160) -/

theorem bitsBlock_blockBits {x : List Byte} (hx : x.length = 8) : bitsBlock (blockBits x) = x := by
  rw [bitsBlock, blockBits, BitVec.toNat_ofNat, show 2 ^ 64 = 256 ^ 8 from rfl, bytesN_mod, ← hx, bytesN_val]

theorem blockBits_bitsBlock (x : BitVec 64) : blockBits (bitsBlock x) = x := by
  apply BitVec.eq_of_toNat_eq
  have hx : x.toNat < 256 ^ 8 := x.isLt
  rw [bitsBlock, blockBits, val_bytesN, BitVec.toNat_ofNat, Nat.mod_eq_of_lt hx, Nat.mod_eq_of_lt x.isLt]

/-! ### The permutations `IP` and `FP` (R162) -/

/-- Two permutation tables of `n` entries undo each other: `u` picks, place by place, the entry of `t` that came from
there. -/
def TablesInvert (n : Nat) (t u : List Nat) : Prop :=
  t.length = n ∧ u.length = n ∧ ∀ i < n, u.getD i 0 - 1 < n ∧ t.getD (u.getD i 0 - 1) 0 - 1 = i

theorem permute_permute {n : Nat} {t u : List Nat} (h : TablesInvert n t u) (x : BitVec n) :
    permute n u (permute n t x) = x := by
  obtain ⟨ht, hu, hinv⟩ := h
  refine BitVec.eq_of_getMsbD_eq fun i hi => ?_
  obtain ⟨hlt, hback⟩ := hinv i hi
  rw [permute_getMsbD u _ hu i hi, permute_getMsbD t x ht _ hlt, hback]

theorem tablesInvert_IP_FP : TablesInvert 64 tableIP tableFP := by unfold TablesInvert; decide

theorem tablesInvert_FP_IP : TablesInvert 64 tableFP tableIP := by unfold TablesInvert; decide

/-! ### The rounds (R168, R169) -/

theorem desRounds_cons (k : BitVec 48) (ks : List (BitVec 48)) (l r : BitVec 32) :
    desRounds (k :: ks) l r = desRounds ks r (l ^^^ desF r k) := rfl

theorem desRounds_append (ks ks' : List (BitVec 48)) (l r : BitVec 32) :
    desRounds (ks ++ ks') l r = desRounds ks' (desRounds ks l r).1 (desRounds ks l r).2 := by
  induction ks generalizing l r with
  | nil => rfl
  | cons k ks ih => exact ih _ _

/-- R169: the rounds under the reversed keys, on the swapped halves, run backwards. -/
theorem desRounds_reverse (ks : List (BitVec 48)) (l r : BitVec 32) :
    desRounds ks.reverse (desRounds ks l r).2 (desRounds ks l r).1 = (r, l) := by
  induction ks generalizing l r with
  | nil => rfl
  | cons k ks ih =>
    rw [List.reverse_cons, desRounds_append, desRounds_cons k ks, ih, desRounds_cons]
    simp only [desRounds, BitVec.xor_assoc, BitVec.xor_self, BitVec.xor_zero]

section
variable (a b : BitVec 32)

theorem extractLsb'_append_high : (a ++ b).extractLsb' 32 32 = a := by
  refine BitVec.eq_of_getLsbD_eq fun i hi => ?_
  rw [BitVec.getLsbD_extractLsb', BitVec.getLsbD_append]
  simp [hi]

theorem extractLsb'_append_low : (a ++ b).extractLsb' 0 32 = b := by
  refine BitVec.eq_of_getLsbD_eq fun i hi => ?_
  rw [BitVec.getLsbD_extractLsb', BitVec.getLsbD_append]
  simp [hi]

theorem extractLsb'_halves (x : BitVec 64) : x.extractLsb' 32 32 ++ x.extractLsb' 0 32 = x := by
  refine BitVec.eq_of_getLsbD_eq fun i hi => ?_
  rw [BitVec.getLsbD_append]
  split
  next h => simp [h]
  next h => simp [show i - 32 < 32 by omega, show 32 + (i - 32) = i by omega]

end

/-- R168, R169: `IP` and `FP` cancel, and so do the rounds between them. -/
theorem desBlock_reverse (ks : List (BitVec 48)) (x : BitVec 64) : desBlock ks.reverse (desBlock ks x) = x := by
  simp only [desBlock]
  rw [permute_permute tablesInvert_FP_IP, extractLsb'_append_high, extractLsb'_append_low, desRounds_reverse,
    extractLsb'_halves, permute_permute tablesInvert_IP_FP]

/-! ### DES and 3DES (R133) -/

section
variable {k x : List Byte}

theorem desD_desE (hx : x.length = 8) : desD k (desE k x) = x := by
  rw [desD, desE, blockBits_bitsBlock, desBlock_reverse, bitsBlock_blockBits hx]

theorem desE_desD (hx : x.length = 8) : desE k (desD k x) = x := by
  have h := desBlock_reverse (desRoundKeys (blockBits k)).reverse (blockBits x)
  rw [List.reverse_reverse] at h
  rw [desD, desE, blockBits_bitsBlock, h, bitsBlock_blockBits hx]

theorem tdesD_tdesE (hx : x.length = 8) : tdesD k (tdesE k x) = x := by
  rw [tdesD, tdesE, desD_desE (desD_length _ _), desE_desD (desE_length _ _), desD_desE hx]

theorem tdesE_tdesD (hx : x.length = 8) : tdesE k (tdesD k x) = x := by
  rw [tdesD, tdesE, desE_desD (desE_length _ _), desD_desE (desD_length _ _), desE_desD hx]

/-- Each third of a key repeated three times is the key (R171). -/
theorem keyThird_repeated {n : Nat} (hk : k.length = 8) (hn : n < 3) : keyThird n (k ++ k ++ k) = k := by
  have h2 : (k ++ k).length = 8 * 2 := by simp [hk]
  rw [keyThird]
  interval_cases n
  · rw [List.append_assoc]
    exact List.take_left' hk
  · rw [List.append_assoc, List.drop_left' hk]
    exact List.take_left' hk
  · rw [List.drop_left' h2, List.take_of_length_le hk.le]

end

end Sys2Proof.Machine
end

section
/-! SUPPORT. AES-128 undoes itself (R133, R180 to R191): each step of a round has its inverse, and the rounds run
backwards under the round keys in reverse. A block is a state of 16 bytes. -/

namespace Sys2Proof.Machine

/-! ### `SubBytes` (R182, R183, R188) -/

theorem invSbox_sbox : ∀ a : Byte, invSbox (sbox a) = a := by decide

theorem sbox_invSbox : ∀ a : Byte, sbox (invSbox a) = a := by decide

theorem invSubBytes_subBytes (s : List Byte) : invSubBytes (subBytes s) = s := by
  simp [invSubBytes, subBytes, Function.comp_def, invSbox_sbox]

theorem subBytes_invSubBytes (s : List Byte) : subBytes (invSubBytes s) = s := by
  simp [invSubBytes, subBytes, Function.comp_def, sbox_invSbox]

/-! ### States by row and column (R181) -/

theorem stateByte_stateOf (f : Nat → Nat → Byte) {r : Nat} (hr : r < 4) (c : Nat) :
    stateByte (stateOf f) r c = f r (c % 4) := by
  rw [stateByte, stateOf_getD f _ (by omega)]
  congr 1 <;> omega

theorem stateByte_mod (s : List Byte) (r c : Nat) : stateByte s r (c % 4) = stateByte s r c := by
  rw [stateByte, stateByte, Nat.mod_mod]

/-- A block is the state of its own bytes. -/
theorem stateOf_eq_self {f : Nat → Nat → Byte} {s : List Byte} (hs : s.length = 16)
    (h : ∀ r < 4, ∀ c < 4, f r c = stateByte s r c) : stateOf f = s := by
  refine List.ext_getElem (by rw [stateOf_length, hs]) fun k h1 h2 => ?_
  have hk : k < 16 := by rwa [hs] at h2
  rw [← List.getD_eq_getElem _ 0#8 h1, ← List.getD_eq_getElem _ 0#8 h2, stateOf_getD f k hk,
    h _ (by omega) _ (by omega), stateByte]
  congr 1
  omega

/-! ### `ShiftRows` (R184) -/

theorem invShiftRows_shiftRows {s : List Byte} (hs : s.length = 16) : invShiftRows (shiftRows s) = s := by
  refine stateOf_eq_self hs fun r hr c hc => ?_
  rw [shiftRows, stateByte_stateOf _ hr, ← stateByte_mod, ← stateByte_mod s r c]
  congr 1
  omega

theorem shiftRows_invShiftRows {s : List Byte} (hs : s.length = 16) : shiftRows (invShiftRows s) = s := by
  refine stateOf_eq_self hs fun r hr c hc => ?_
  rw [invShiftRows, stateByte_stateOf _ hr, ← stateByte_mod, ← stateByte_mod s r c]
  congr 1
  omega

/-! ### `MixColumns` (R180, R185) -/

/-- R180: the reduction is added where the top bit is shifted out. -/
theorem xtime_eq (a : Byte) : xtime a = a <<< 1 ^^^ if a.getLsbD 7 then 0x1B#8 else 0#8 := by
  unfold xtime
  split <;> simp

theorem xtime_xor (a b : Byte) : xtime (a ^^^ b) = xtime a ^^^ xtime b := by
  have hreduce : (if (a ^^^ b).getLsbD 7 then 0x1B#8 else 0#8) =
      (if a.getLsbD 7 then 0x1B#8 else 0#8) ^^^ if b.getLsbD 7 then 0x1B#8 else 0#8 := by
    rw [BitVec.getLsbD_xor]
    cases a.getLsbD 7 <;> cases b.getLsbD 7 <;> rfl
  rw [xtime_eq, xtime_eq, xtime_eq, hreduce, BitVec.shiftLeft_xor_distrib]
  ac_rfl

theorem xtimes_xor (n : Nat) (a b : Byte) : xtimes n (a ^^^ b) = xtimes n a ^^^ xtimes n b := by
  induction n with
  | zero => rfl
  | succ n ih => rw [xtimes, ih, xtime_xor, xtimes, xtimes]

theorem xor_xor_xor_comm (a b c d : Byte) : a ^^^ b ^^^ (c ^^^ d) = a ^^^ c ^^^ (b ^^^ d) := by
  ac_rfl

/-- The sum over the set bits of `m`, over the places of any list, is additive in the other factor. -/
theorem foldl_xtimes_xor (m : Byte) (l : List Nat) (a b p q : Byte) :
    l.foldl (fun acc i => if m.getLsbD i then acc ^^^ xtimes i (a ^^^ b) else acc) (p ^^^ q) =
      l.foldl (fun acc i => if m.getLsbD i then acc ^^^ xtimes i a else acc) p ^^^
        l.foldl (fun acc i => if m.getLsbD i then acc ^^^ xtimes i b else acc) q := by
  induction l generalizing p q with
  | nil => rfl
  | cons i l ih =>
    simp only [List.foldl_cons]
    split
    · rw [xtimes_xor, xor_xor_xor_comm, ih]
    · exact ih p q

/-- R180: the field product distributes over the sum. -/
theorem gmul_xor (a b m : Byte) : gmul (a ^^^ b) m = gmul a m ^^^ gmul b m :=
  foldl_xtimes_xor m (List.range 8) a b 0#8 0#8

/-- One row of a column transformation (R185). -/
def mixRow (m0 m1 m2 m3 a0 a1 a2 a3 : Byte) : Byte := gmul a0 m0 ^^^ gmul a1 m1 ^^^ gmul a2 m2 ^^^ gmul a3 m3

theorem mixWith_eq (m0 m1 m2 m3 : Byte) (s : List Byte) :
    mixWith m0 m1 m2 m3 s = stateOf fun r c => mixRow m0 m1 m2 m3 (stateByte s r c) (stateByte s ((r + 1) % 4) c)
      (stateByte s ((r + 2) % 4) c) (stateByte s ((r + 3) % 4) c) := rfl

/-- The coefficients `n` undo the coefficients `m`: what a row of the two transformations
together takes from a byte `a` in its own row, and from one in each other row. -/
def CoefficientsInvert (m0 m1 m2 m3 n0 n1 n2 n3 : Byte) : Prop :=
  ∀ a : Byte,
    mixRow n0 n1 n2 n3 (gmul a m0) (gmul a m3) (gmul a m2) (gmul a m1) = a ∧
    mixRow n0 n1 n2 n3 (gmul a m1) (gmul a m0) (gmul a m3) (gmul a m2) = 0#8 ∧
    mixRow n0 n1 n2 n3 (gmul a m2) (gmul a m1) (gmul a m0) (gmul a m3) = 0#8 ∧
    mixRow n0 n1 n2 n3 (gmul a m3) (gmul a m2) (gmul a m1) (gmul a m0) = 0#8

section
variable (a : Byte)

theorem gmul_one : gmul a 0x01#8 = a := by simp [gmul, List.range, List.range.loop, xtimes]

theorem gmul_two : gmul a 0x02#8 = xtime a := by simp [gmul, List.range, List.range.loop, xtimes]

theorem gmul_three : gmul a 0x03#8 = a ^^^ xtime a := by simp [gmul, List.range, List.range.loop, xtimes]

theorem gmul_nine : gmul a 0x09#8 = a ^^^ xtime (xtime (xtime a)) := by
  simp [gmul, List.range, List.range.loop, xtimes]

theorem gmul_eleven : gmul a 0x0B#8 = a ^^^ xtime a ^^^ xtime (xtime (xtime a)) := by
  simp [gmul, List.range, List.range.loop, xtimes]

theorem gmul_thirteen : gmul a 0x0D#8 = a ^^^ xtime (xtime a) ^^^ xtime (xtime (xtime a)) := by
  simp [gmul, List.range, List.range.loop, xtimes]

theorem gmul_fourteen : gmul a 0x0E#8 = xtime a ^^^ xtime (xtime a) ^^^ xtime (xtime (xtime a)) := by
  simp [gmul, List.range, List.range.loop, xtimes]

end

theorem xor_left_comm (x y z : Byte) : x ^^^ (y ^^^ z) = y ^^^ (x ^^^ z) := by ac_rfl

/-- R185, `0E·02 + 0B·01 + 0D·01 + 09·03 = 01` and its like: as sums of repeated `xtime` the products cancel in
pairs. -/
theorem coefficientsInvert_mix_invMix : CoefficientsInvert 0x02#8 0x03#8 0x01#8 0x01#8 0x0E#8 0x0B#8 0x0D#8 0x09#8 := by
  intro a
  simp only [mixRow, gmul_one, gmul_two, gmul_three, gmul_nine, gmul_eleven, gmul_thirteen, gmul_fourteen, xtime_xor]
  simp [BitVec.xor_assoc, BitVec.xor_comm, xor_left_comm]

theorem coefficientsInvert_invMix_mix : CoefficientsInvert 0x0E#8 0x0B#8 0x0D#8 0x09#8 0x02#8 0x03#8 0x01#8 0x01#8 := by
  intro a
  simp only [mixRow, gmul_one, gmul_two, gmul_three, gmul_nine, gmul_eleven, gmul_thirteen, gmul_fourteen, xtime_xor]
  simp [BitVec.xor_assoc, BitVec.xor_comm, xor_left_comm]

section
variable {m0 m1 m2 m3 n0 n1 n2 n3 : Byte}

/-- A row of the second transformation, on a column the first has transformed, is the column's byte. -/
theorem mixRow_mixRow (h : CoefficientsInvert m0 m1 m2 m3 n0 n1 n2 n3) (a0 a1 a2 a3 : Byte) :
    mixRow n0 n1 n2 n3 (mixRow m0 m1 m2 m3 a0 a1 a2 a3) (mixRow m0 m1 m2 m3 a1 a2 a3 a0)
      (mixRow m0 m1 m2 m3 a2 a3 a0 a1) (mixRow m0 m1 m2 m3 a3 a0 a1 a2) = a0 := by
  obtain ⟨h0, -⟩ := h a0
  obtain ⟨-, h1, -⟩ := h a1
  obtain ⟨-, -, h2, -⟩ := h a2
  obtain ⟨-, -, -, h3⟩ := h a3
  calc
    _ = mixRow n0 n1 n2 n3 (gmul a0 m0) (gmul a0 m3) (gmul a0 m2) (gmul a0 m1) ^^^
        mixRow n0 n1 n2 n3 (gmul a1 m1) (gmul a1 m0) (gmul a1 m3) (gmul a1 m2) ^^^
        mixRow n0 n1 n2 n3 (gmul a2 m2) (gmul a2 m1) (gmul a2 m0) (gmul a2 m3) ^^^
        mixRow n0 n1 n2 n3 (gmul a3 m3) (gmul a3 m2) (gmul a3 m1) (gmul a3 m0) := by
      simp only [mixRow, gmul_xor]
      ac_rfl
    _ = a0 := by rw [h0, h1, h2, h3, BitVec.xor_zero, BitVec.xor_zero, BitVec.xor_zero]

theorem mixWith_mixWith (h : CoefficientsInvert m0 m1 m2 m3 n0 n1 n2 n3) {s : List Byte} (hs : s.length = 16) :
    mixWith n0 n1 n2 n3 (mixWith m0 m1 m2 m3 s) = s := by
  rw [mixWith_eq n0]
  refine stateOf_eq_self hs fun r hr c hc => ?_
  have hrow : ∀ j, (r + j) % 4 < 4 := fun j => Nat.mod_lt _ (by decide)
  rw [mixWith_eq, stateByte_stateOf _ hr, stateByte_stateOf _ (hrow 1), stateByte_stateOf _ (hrow 2),
    stateByte_stateOf _ (hrow 3)]
  simp only [Nat.mod_add_mod, stateByte_mod, Nat.add_assoc, Nat.reduceAdd]
  rw [show (r + 4) % 4 = r by omega, show (r + 5) % 4 = (r + 1) % 4 by omega, show (r + 6) % 4 = (r + 2) % 4 by omega]
  exact mixRow_mixRow h _ _ _ _

end

theorem invMixColumns_mixColumns {s : List Byte} (hs : s.length = 16) : invMixColumns (mixColumns s) = s :=
  mixWith_mixWith coefficientsInvert_mix_invMix hs

theorem mixColumns_invMixColumns {s : List Byte} (hs : s.length = 16) : mixColumns (invMixColumns s) = s :=
  mixWith_mixWith coefficientsInvert_invMix_mix hs

/-! ### `AddRoundKey` (R186) -/

/-- R186: adding a round key twice adds nothing. -/
theorem addRoundKey_addRoundKey {s rk : List Byte} (h : s.length = rk.length) :
    addRoundKey (addRoundKey s rk) rk = s := by
  refine List.ext_getElem (by simp [h]) fun i _ _ => ?_
  simp [addRoundKey]

/-! ### The rounds (R190, R191) -/

/-- What every round of `AES_E` does first. -/
def subShift (s : List Byte) : List Byte := shiftRows (subBytes s)

/-- What every round of `AES_D` does first. -/
def invSubShift (s : List Byte) : List Byte := invSubBytes (invShiftRows s)

/-- A full round of `AES_E`. -/
def aesRound (s rk : List Byte) : List Byte := addRoundKey (mixColumns (subShift s)) rk

/-- A full round of `AES_D`. -/
def aesInvRound (s rk : List Byte) : List Byte := invMixColumns (addRoundKey (invSubShift s) rk)

@[simp] theorem subShift_length (s : List Byte) : (subShift s).length = 16 := shiftRows_length _

@[simp] theorem invSubShift_length (s : List Byte) : (invSubShift s).length = 16 := by simp [invSubShift]

theorem aesRound_length {rk : List Byte} (hrk : rk.length = 16) (s : List Byte) : (aesRound s rk).length = 16 := by
  simp [aesRound, hrk]

@[simp] theorem aesInvRound_length (s rk : List Byte) : (aesInvRound s rk).length = 16 := invMixColumns_length _

/-- R190: the rounds of `AES_E` are full but for the last. -/
theorem aesRounds_concat (mid : List (List Byte)) (last s : List Byte) :
    aesRounds (mid ++ [last]) s = addRoundKey (subShift (mid.foldl aesRound s)) last := by
  induction mid generalizing s with
  | nil => rfl
  | cons rk mid ih =>
    cases mid with
    | nil => rfl
    | cons rk' mid => exact ih _

/-- R191: the rounds of `AES_D` are full but for the last. -/
theorem aesInvRounds_concat (mid : List (List Byte)) (last s : List Byte) :
    aesInvRounds (mid ++ [last]) s = addRoundKey (invSubShift (mid.foldl aesInvRound s)) last := by
  induction mid generalizing s with
  | nil => rfl
  | cons rk mid ih =>
    cases mid with
    | nil => rfl
    | cons rk' mid => exact ih _

section
variable {s rk : List Byte}

theorem invSubShift_subShift (hs : s.length = 16) : invSubShift (subShift s) = s := by
  rw [invSubShift, subShift, invShiftRows_shiftRows (by simpa using hs), invSubBytes_subBytes]

theorem subShift_invSubShift (hs : s.length = 16) : subShift (invSubShift s) = s := by
  rw [invSubShift, subShift, subBytes_invSubBytes, shiftRows_invShiftRows hs]

/-- A round of `AES_D` takes the state inside one round of `AES_E` to the state inside the round before. -/
theorem aesInvRound_subShift_aesRound (hrk : rk.length = 16) (s : List Byte) :
    aesInvRound (subShift (aesRound s rk)) rk = subShift s := by
  rw [aesInvRound, invSubShift_subShift (aesRound_length hrk s), aesRound, addRoundKey_addRoundKey (by simp [hrk]),
    invMixColumns_mixColumns (subShift_length s)]

theorem aesRound_invSubShift_aesInvRound (hrk : rk.length = 16) (s : List Byte) :
    aesRound (invSubShift (aesInvRound s rk)) rk = invSubShift s := by
  rw [aesRound, subShift_invSubShift (aesInvRound_length s rk), aesInvRound,
    mixColumns_invMixColumns (by simp [hrk]), addRoundKey_addRoundKey (by simp [hrk])]

end

section
variable {mid : List (List Byte)} (hmid : ∀ rk ∈ mid, rk.length = 16)
include hmid

/-- Full rounds run backwards under their round keys in reverse. -/
theorem foldl_aesInvRound_reverse (s : List Byte) :
    mid.reverse.foldl aesInvRound (subShift (mid.foldl aesRound s)) = subShift s := by
  induction mid generalizing s with
  | nil => rfl
  | cons rk mid ih =>
    rw [List.foldl_cons, List.reverse_cons, List.foldl_append, ih fun r hr => hmid r (List.mem_cons_of_mem _ hr)]
    exact aesInvRound_subShift_aesRound (hmid rk List.mem_cons_self) s

/-- Full rounds run forwards again. -/
theorem foldl_aesRound_reverse (s : List Byte) :
    mid.reverse.foldl aesRound (invSubShift (mid.foldl aesInvRound s)) = invSubShift s := by
  induction mid generalizing s with
  | nil => rfl
  | cons rk mid ih =>
    rw [List.foldl_cons, List.reverse_cons, List.foldl_append, ih fun r hr => hmid r (List.mem_cons_of_mem _ hr)]
    exact aesRound_invSubShift_aesInvRound (hmid rk List.mem_cons_self) s

end

/-! ### AES-128 (R133) -/

/-- R187: the first round key, those of the full rounds, and the last. -/
theorem exists_aesRoundKeys_eq {k : List Byte} (hk : k.length = 16) :
    ∃ first mid last, aesRoundKeys k = first :: (mid ++ [last]) ∧ first.length = 16 ∧ last.length = 16 ∧
      ∀ rk ∈ mid, rk.length = 16 := by
  obtain ⟨hlen, hkeys⟩ := aesRoundKeys_spec k hk
  obtain ⟨first, rest, hrest⟩ := List.exists_cons_of_length_pos (by omega : 0 < (aesRoundKeys k).length)
  obtain ⟨mid, last, rfl⟩ : ∃ mid last, rest = mid ++ [last] :=
    rest.eq_nil_or_concat'.resolve_left (by rintro rfl; simp [hrest] at hlen)
  rw [hrest] at hkeys
  exact ⟨first, mid, last, hrest, hkeys _ (by simp), hkeys _ (by simp), fun rk h => hkeys rk (by simp [h])⟩

section
variable {k x first last : List Byte} {mid : List (List Byte)}

theorem aesE_eq (h : aesRoundKeys k = first :: (mid ++ [last])) (x : List Byte) :
    aesE k x = addRoundKey (subShift (mid.foldl aesRound (addRoundKey x first))) last := by
  rw [aesE, h]
  exact aesRounds_concat mid last _

theorem aesD_eq (h : aesRoundKeys k = first :: (mid ++ [last])) (x : List Byte) :
    aesD k x = addRoundKey (invSubShift (mid.reverse.foldl aesInvRound (addRoundKey x last))) first := by
  have hrev : (aesRoundKeys k).reverse = last :: (mid.reverse ++ [first]) := by simp [h]
  rw [aesD, hrev]
  exact aesInvRounds_concat mid.reverse first _

theorem aesD_aesE (hk : k.length = 16) (hx : x.length = 16) : aesD k (aesE k x) = x := by
  obtain ⟨first, mid, last, hkeys, hfirst, hlast, hmid⟩ := exists_aesRoundKeys_eq hk
  have hx0 : (addRoundKey x first).length = 16 := by simp [hx, hfirst]
  rw [aesE_eq hkeys, aesD_eq hkeys, addRoundKey_addRoundKey (by simp [hlast]), foldl_aesInvRound_reverse hmid,
    invSubShift_subShift hx0, addRoundKey_addRoundKey (by rw [hx, hfirst])]

theorem aesE_aesD (hk : k.length = 16) (hx : x.length = 16) : aesE k (aesD k x) = x := by
  obtain ⟨first, mid, last, hkeys, hfirst, hlast, hmid⟩ := exists_aesRoundKeys_eq hk
  have hx0 : (addRoundKey x last).length = 16 := by simp [hx, hlast]
  have hback := foldl_aesRound_reverse (mid := mid.reverse) (by simpa using hmid) (addRoundKey x last)
  rw [List.reverse_reverse] at hback
  rw [aesD_eq hkeys, aesE_eq hkeys, addRoundKey_addRoundKey (by simp [hfirst]), hback, subShift_invSubShift hx0,
    addRoundKey_addRoundKey (by rw [hx, hlast])]

end

/-! ### Every algorithm (R133) -/

section
variable {alg : Alg} {k x : List Byte}

theorem blockDecrypt_blockEncrypt (hk : k.length = keyLength alg) (hx : x.length = blockWidth alg) :
    blockDecrypt alg k (blockEncrypt alg k x) = x := by
  cases alg with
  | des => exact desD_desE (k := k) hx
  | tdes => exact tdesD_tdesE (k := k) hx
  | aes => exact aesD_aesE (k := k) (x := x) hk hx

theorem blockEncrypt_blockDecrypt (hk : k.length = keyLength alg) (hx : x.length = blockWidth alg) :
    blockEncrypt alg k (blockDecrypt alg k x) = x := by
  cases alg with
  | des => exact desE_desD (k := k) hx
  | tdes => exact tdesE_tdesD (k := k) hx
  | aes => exact aesE_aesD (k := k) (x := x) hk hx

end

end Sys2Proof.Machine
end

section
/-! SUPPORT. `encrypt` and `decrypt` undo each other (R140, R141, R153), and the commands of the cipher engine in terms
of them (R143 to R149, R260). -/

namespace Sys2Proof.Machine

/-! ### Round trips (R153) -/

theorem blockWidth_le (alg : Alg) : blockWidth alg ≤ 255 := by cases alg <;> decide

section
variable {alg : Alg} {key data c p : List Byte}

theorem ecb_blockDecrypt_blockEncrypt (hk : key.length = keyLength alg) {d : List Byte}
    (hd : d.length % blockWidth alg = 0) :
    ecb (blockDecrypt alg key) (blockWidth alg) (ecb (blockEncrypt alg key) (blockWidth alg) d) = d :=
  ecb_ecb (fun x hx => blockEncrypt_length alg key x hk hx) (fun _ hx => blockDecrypt_blockEncrypt hk hx) hd

theorem ecb_blockEncrypt_blockDecrypt (hk : key.length = keyLength alg) {d : List Byte}
    (hd : d.length % blockWidth alg = 0) :
    ecb (blockEncrypt alg key) (blockWidth alg) (ecb (blockDecrypt alg key) (blockWidth alg) d) = d :=
  ecb_ecb (fun x hx => blockDecrypt_length alg key x hk hx) (fun _ hx => blockEncrypt_blockDecrypt hk hx) hd

/-- What `decrypt` makes of an encryption before it looks at the padding. -/
theorem ecb_blockDecrypt_ecbEncrypt (hk : key.length = keyLength alg) (data : List Byte) :
    ecb (blockDecrypt alg key) (blockWidth alg) (ecbEncrypt alg key data) = pkcs7Pad data (blockWidth alg) :=
  ecb_blockDecrypt_blockEncrypt hk (pkcs7Pad_length_mod data _ (blockWidth_pos alg))

/-- An encryption is one or more whole blocks, which `decrypt` accepts (R140, R141). -/
theorem ecbEncrypt_legal (hk : key.length = keyLength alg) (data : List Byte) :
    (ecbEncrypt alg key data).length ≠ 0 ∧ (ecbEncrypt alg key data).length % blockWidth alg = 0 := by
  have hlt := Nat.mod_lt data.length (blockWidth_pos alg)
  have hlen := ecbEncrypt_length alg key data hk
  refine ⟨by omega, ?_⟩
  rw [hlen, ← pkcs7Pad_length]
  exact pkcs7Pad_length_mod data _ (blockWidth_pos alg)

/-- R153. -/
theorem decrypt_ecbEncrypt (hk : key.length = keyLength alg) (data : List Byte) :
    decrypt true alg key (ecbEncrypt alg key data) = .ok data ∧
      decrypt false alg key (ecbEncrypt alg key data) = .ok (pkcs7Pad data (blockWidth alg)) := by
  obtain ⟨hne, hmod⟩ := ecbEncrypt_legal hk data
  rw [decrypt_legal true alg key _ hk hne hmod, decrypt_legal false alg key _ hk hne hmod,
    ecb_blockDecrypt_ecbEncrypt hk, pkcs7Unpad_pkcs7Pad data (blockWidth_pos alg) (blockWidth_le alg)]
  exact ⟨rfl, rfl⟩

/-- R141: what a decryption with unpadding accepts, and what it answers. -/
theorem decrypt_true_eq_ok (hk : key.length = keyLength alg) (h : decrypt true alg key c = .ok p) :
    c.length % blockWidth alg = 0 ∧
      pkcs7Unpad (ecb (blockDecrypt alg key) (blockWidth alg) c) (blockWidth alg) = some p := by
  unfold decrypt at h
  rw [if_neg (not_not.2 hk)] at h
  split at h
  next => cases h
  next hlegal =>
    obtain ⟨-, hmod⟩ := not_or.1 hlegal
    refine ⟨not_not.1 hmod, ?_⟩
    simp only [if_true] at h
    split at h
    next r hr => cases h; exact hr
    next => cases h

/-- R153, the other way. -/
theorem ecbEncrypt_of_decrypt (hk : key.length = keyLength alg) (h : decrypt true alg key c = .ok p) :
    ecbEncrypt alg key p = c := by
  obtain ⟨hmod, hunpad⟩ := decrypt_true_eq_ok hk h
  have hlen := ecb_length _ _ (fun x hx => blockDecrypt_length alg key x hk hx) c hmod
  rw [ecbEncrypt, pkcs7Pad_of_pkcs7Unpad (blockWidth_le alg) (by rw [hlen, hmod]) hunpad,
    ecb_blockEncrypt_blockDecrypt hk hmod]

end

/-! ### Key expansion (R134) -/

/-- R134: the expansion of a 24-byte key, too, is `k[i mod len(k)]`. -/
theorem expand3DES_eq (k : List Byte) : expand3DES k = (List.range 24).map fun i => k.getD (i % k.length) 0#8 := by
  unfold expand3DES
  split
  next h =>
    refine List.ext_getElem (by simp [h]) fun i h1 h2 => ?_
    have hi : i % 24 = i := Nat.mod_eq_of_lt (h ▸ h1)
    rw [List.getElem_map, List.getElem_range, h, hi, List.getD_eq_getElem _ _ h1]
  next => rfl

/-- The expansion reads only bytes below `KLEN`, which `KEY` and the key operand share. -/
theorem expand3DES_keyOperand {s : State} (hs : Sizes s) (hpos : 0 < s.klen.toNat) (hle : s.klen.toNat ≤ 24) :
    expand3DES (keyOperand s) = (List.range 24).map fun i => s.key.getD (i % s.klen.toNat) 0#8 := by
  have hlen : (keyOperand s).length = s.klen.toNat := (keyOperand_length s hs).trans (Nat.min_eq_left hle)
  rw [expand3DES_eq, hlen]
  refine List.map_congr_left fun i _ => ?_
  rw [keyOperand, List.getD_eq_getElem?_getD, List.getElem?_take_of_lt (Nat.mod_lt i hpos), List.getD_eq_getElem?_getD]

/-! ### The commands of an algorithm (R143 to R148, R260) -/

section
variable {alg : Alg} {s : State}

theorem legalKlen_encOf (h : s.klen.toNat = keyLength alg) : legalKlen (encOf alg) s.klen.toNat = true := by
  rw [h]; cases alg <;> rfl

theorem legalKlen_decOf (h : s.klen.toNat = keyLength alg) : legalKlen (decOf alg) s.klen.toNat = true := by
  rw [h]; cases alg <;> rfl

theorem legalDlen_encOf {m n : Nat} (h : n ≤ m) : legalDlen m (encOf alg) n = true := by
  cases alg <;> exact decide_eq_true h

theorem legalDlen_decOf {m n : Nat} (hpos : 0 < n) (hmod : n % blockWidth alg = 0) (hle : n ≤ m) :
    legalDlen m (decOf alg) n = true := by
  cases alg <;> exact (wholeBlocks_iff _ m n).2 ⟨hpos, hmod, hle⟩

theorem commandResult_encOf (alg : Alg) (s : State) : commandResult (encOf alg) s = encResult alg s := by
  cases alg <;> rfl

theorem commandResult_decOf (alg : Alg) (s : State) : commandResult (decOf alg) s = decResult alg s := by
  cases alg <;> rfl

/-- R96: the key of a command with a legal `KLEN` has the algorithm's length. -/
theorem keyOperand_length_eq (hs : Sizes s) (hk : s.klen.toNat = keyLength alg) :
    (keyOperand s).length = keyLength alg := by
  have hmax : keyLength alg ≤ 24 := by cases alg <;> decide
  rw [keyOperand_length s hs, hk, Nat.min_eq_left hmax]

/-- R140, R143 to R145: the end of an encryption command, and the length of its result. -/
theorem exec_encOf (hs : Sizes s) (hb : s.busy = false) (hd : s.dlen.toNat ≤ s.params.dataMax)
    (hk : s.klen.toNat = keyLength alg) :
    exec (encOf alg) s =
        .next (endedWell (encode (encOf alg)) (ecbEncrypt alg (keyOperand s) (dataOperand s)) s) ∧
      (ecbEncrypt alg (keyOperand s) (dataOperand s)).length =
        s.dlen.toNat + blockWidth alg - s.dlen.toNat % blockWidth alg := by
  have hkey := keyOperand_length_eq hs hk
  have hdata : (dataOperand s).length = s.dlen.toNat := (dataOperand_length s hs).trans (Nat.min_eq_left hd)
  have hstart := startError_none (encOf alg) s (legalKlen_encOf hk) (legalDlen_encOf hd)
  have hresult : commandResult (encOf alg) s = .ok (ecbEncrypt alg (keyOperand s) (dataOperand s)) := by
    rw [commandResult_encOf, encResult, encrypt_eq_ok alg _ _ hkey]
  have hlt := Nat.mod_lt s.dlen.toNat (blockWidth_pos alg)
  refine ⟨exec_eq_endedWell hb hstart (by cases alg <;> exact nofun) hresult, ?_⟩
  rw [ecbEncrypt_length alg _ _ hkey, hdata]
  omega

/-- R141: `decrypt` on legal lengths, at the two values of `DEC_UNPAD`. -/
theorem decrypt_ends_well {unpad : Bool} {key data : List Byte} (hk : key.length = keyLength alg)
    (h0 : data.length ≠ 0) (hd : data.length % blockWidth alg = 0) :
    (unpad = false → decrypt unpad alg key data = .ok (ecb (blockDecrypt alg key) (blockWidth alg) data)) ∧
      ∀ r, unpad = true → pkcs7Unpad (ecb (blockDecrypt alg key) (blockWidth alg) data) (blockWidth alg) = some r →
        decrypt unpad alg key data = .ok r := by
  rw [decrypt_legal unpad alg key data hk h0 hd]
  refine ⟨?_, ?_⟩
  · rintro rfl; rfl
  · rintro r rfl hr; rw [hr]; rfl

/-- A decryption command that passes its start checks ends well where `decrypt` does. -/
theorem exec_decrypt {i : Instr} {key : List Byte} (hs : Sizes s) (hb : s.busy = false) (hpos : 0 < s.dlen.toNat)
    (hd : s.dlen.toNat ≤ s.params.dataMax) (hmod : s.dlen.toNat % blockWidth alg = 0) (hi : i ≠ .clear)
    (he : startError i s = none) (hk : key.length = keyLength alg)
    (hr : commandResult i s = decrypt s.params.decUnpad alg key (dataOperand s)) :
    (s.params.decUnpad = false → exec i s = .next
        (endedWell (encode i) (ecb (blockDecrypt alg key) (blockWidth alg) (dataOperand s)) s)) ∧
      ∀ r, s.params.decUnpad = true →
        pkcs7Unpad (ecb (blockDecrypt alg key) (blockWidth alg) (dataOperand s)) (blockWidth alg) = some r →
        exec i s = .next (endedWell (encode i) r s) := by
  have hdata : (dataOperand s).length = s.dlen.toNat := (dataOperand_length s hs).trans (Nat.min_eq_left hd)
  obtain ⟨hplain, hunpad⟩ := decrypt_ends_well (unpad := s.params.decUnpad) hk (data := dataOperand s) (by omega)
    (by rw [hdata, hmod])
  exact ⟨fun h => exec_eq_endedWell hb he hi (hr.trans (hplain h)),
    fun r h hpad => exec_eq_endedWell hb he hi (hr.trans (hunpad r h hpad))⟩

/-- R141, R146 to R148: the end of a decryption command where its padding is good or not looked at. -/
theorem exec_decOf (hs : Sizes s) (hb : s.busy = false) (hpos : 0 < s.dlen.toNat)
    (hd : s.dlen.toNat ≤ s.params.dataMax) (hk : s.klen.toNat = keyLength alg)
    (hmod : s.dlen.toNat % blockWidth alg = 0) :
    (s.params.decUnpad = false → exec (decOf alg) s = .next (endedWell (encode (decOf alg))
        (ecb (blockDecrypt alg (keyOperand s)) (blockWidth alg) (dataOperand s)) s)) ∧
      ∀ r, s.params.decUnpad = true →
        pkcs7Unpad (ecb (blockDecrypt alg (keyOperand s)) (blockWidth alg) (dataOperand s)) (blockWidth alg) = some r →
        exec (decOf alg) s = .next (endedWell (encode (decOf alg)) r s) :=
  exec_decrypt hs hb hpos hd hmod (by cases alg <;> exact nofun)
    (startError_none (decOf alg) s (legalKlen_decOf hk) (legalDlen_decOf hpos hmod hd)) (keyOperand_length_eq hs hk)
    (commandResult_decOf alg s)

/-- R96: the lengths `DECRYPT_TRACK` takes. -/
theorem startError_decryptTrack (hk : s.klen.toNat = 16 ∨ s.klen.toNat = 24) (hpos : 0 < s.dlen.toNat)
    (hmod : s.dlen.toNat % 16 = 0) (hd : s.dlen.toNat ≤ s.params.dataMax) : startError .decryptTrack s = none := by
  refine startError_none .decryptTrack s ?_ ((wholeBlocks_iff 16 _ _).2 ⟨hpos, hmod, hd⟩)
  rcases hk with h | h <;> rw [h] <;> rfl

end

end Sys2Proof.Machine
end

section
/-! SUPPORT. The host procedure `decryptTrack` (R265): what its statements leave in the block, how `DECRYPT_TRACK` ends
on every `DLEN` that fits, and how the host reads the end (R299). -/

namespace Sys2Proof.Machine

/-! ### `DECRYPT_TRACK` on any data that fits (R94, R141, R260) -/

/-- R141: data that is no whole number of blocks, or none, is refused. -/
theorem decrypt_illegal_length {unpad : Bool} {alg : Alg} {key data : List Byte} (hk : key.length = keyLength alg)
    (h : data.length = 0 ∨ data.length % blockWidth alg ≠ 0) :
    decrypt unpad alg key data = .error (cipherFailed 2#8) := by
  rw [decrypt, if_neg (not_not.2 hk), if_pos h]

/-- R285: whatever `decrypt` raises is `CipherOperationFailed`. -/
theorem exists_eq_cipherFailed {unpad : Bool} {alg : Alg} {key data : List Byte} {e : Err}
    (h : decrypt unpad alg key data = .error e) : ∃ sub, e = cipherFailed sub := by
  rcases decrypt_error_cases unpad alg key data e h with h1 | h2 | ⟨h3, -⟩
  · exact ⟨_, h1⟩
  · exact ⟨_, h2⟩
  · exact ⟨_, h3⟩

/-- A `DLEN` that is illegal for `DECRYPT_TRACK` is found at start, with the error `decrypt` would raise: so the command
ends as `decrypt` says for every `DLEN` that fits `DIN`. -/
theorem exec_decryptTrack {s : State} (hs : Sizes s) (hb : s.busy = false) (hk : s.klen.toNat = 16 ∨ s.klen.toNat = 24)
    (hd : s.dlen.toNat ≤ s.params.dataMax) :
    exec .decryptTrack s = .next (conclude (trackResult s) (beginCommand (encode .decryptTrack) s)) := by
  have hdata : (dataOperand s).length = s.dlen.toNat := (dataOperand_length s hs).trans (Nat.min_eq_left hd)
  rw [exec_eq_runCommand]
  cases he : startError .decryptTrack s with
  | none => exact runCommand_started .decryptTrack _ s hb he
  | some e =>
    rw [runCommand_failed .decryptTrack _ s e hb he]
    have hklen : legalKlen .decryptTrack s.klen.toNat = true := by
      rcases hk with h | h <;> rw [h] <;> rfl
    rcases startError_cases .decryptTrack s e he with ⟨-, hlong, -⟩ | ⟨-, hlong, -⟩ | ⟨hbad, -⟩ | ⟨hbad, rfl⟩
    · omega
    · omega
    · rw [hklen] at hbad; cases hbad
    · have hillegal : ¬(0 < s.dlen.toNat ∧ s.dlen.toNat % 16 = 0 ∧ s.dlen.toNat ≤ s.params.dataMax) := fun h =>
        absurd ((wholeBlocks_iff 16 _ _).2 h) (ne_true_of_eq_false hbad)
      have hresult : trackResult s = .error (cipherFailed 2#8) :=
        decrypt_illegal_length (deriveKey_length _ _) (by rw [hdata, blockWidth]; omega)
      rw [hresult, conclude_error]

/-! ### The typed result (R299) -/

theorem Sizes.sizes_withHost {s : State} (h : Sizes s) (es : List Event) (rs : List (Nat × Word)) :
    Sizes (withHost es rs s) :=
  ⟨h.params, h.key, h.ksn, h.iv, h.din, h.dout, h.curkey, h.olen, h.res, h.rlen⟩

theorem hostReadWord_idle {addr : Nat} {r : MapReg} {s : State} (hb : s.busy = false)
    (hadm : admittedReg 4 addr = .ok r) :
    hostReadWord addr s = .ok (regWord s r, withHost [] (s.returned ++ [(addr, regWord s r)]) s) := by
  rw [hostReadWord_eq addr r s hadm, readValue_idle hb]
  rfl

/-- R30: `ERR` is bit 2 of `STATUS`. -/
theorem statusWord_getLsbD_err {s : State} (hb : s.busy = false) : (statusWord s).getLsbD 2 = s.err := by
  rw [statusWord_idle hb]
  cases s.done <;> cases s.err <;> rfl

section
variable {s : State}

/-- R299: without an error the host has the result. -/
theorem typedResult_ok (hs : Sizes s) (hb : s.busy = false) (herr : s.err = false) :
    ∃ t, typedResult s = .ok (.ok (s.dout.take s.olen.toNat), t) := by
  have hstatus := hostReadWord_idle (addr := 0x004) (r := .status) hb rfl
  simp only [typedResult, hstatus, regWord, statusWord_getLsbD_err hb, herr, Bind.bind, Except.bind,
    readOut_eq (hs.sizes_withHost [] _) (s := withHost [] _ s) hb, Bool.false_eq_true, if_false]
  exact ⟨_, rfl⟩

/-- R299: after an error the host has the kind that `ERRCODE` shows. -/
theorem typedResult_error (hb : s.busy = false) (herr : s.err = true) :
    ∃ t, typedResult s = .ok
      (.error ((errKindOf ((s.errcode.setWidth 32).extractLsb' 0 8)).getD .cipherOperationFailed), t) := by
  have hstatus := hostReadWord_idle (addr := 0x004) (r := .status) hb rfl
  have hcode := fun rs => hostReadWord_idle (addr := 0x008) (r := .errcode) (s := withHost [] rs s) hb rfl
  simp only [typedResult, hstatus, hcode, regWord, statusWord_getLsbD_err hb, herr, Bind.bind, Except.bind, if_true]
  exact ⟨_, rfl⟩

/-- R281, R285: the kind in the code of a `CipherOperationFailed`, whatever its sub-cause. -/
theorem errKindOf_cipherFailed (sub : BitVec 8) :
    errKindOf (((errWord (cipherFailed sub)).setWidth 32).extractLsb' 0 8) = some .cipherOperationFailed := by
  have hkind : ((errWord (cipherFailed sub)).setWidth 32).extractLsb' 0 8 = 0x02#8 := by
    refine BitVec.eq_of_getLsbD_eq fun i hi => ?_
    rw [BitVec.getLsbD_extractLsb', BitVec.getLsbD_setWidth, errWord, BitVec.getLsbD_append]
    simp [hi, show i < 32 by omega, cipherFailed, errKindCode]
  rw [hkind]
  decide

/-- The end of a command whose function raises nothing but `CipherOperationFailed`, as the host presents it. -/
theorem typedResult_conclude {r : Except Err (List Byte)} (h : Begun s)
    (hok : ∀ b, r = .ok b → b.length ≤ s.params.doutMax) (herr : ∀ e, r = .error e → ∃ sub, e = cipherFailed sub)
    (rs : List (Nat × Word)) :
    ∃ t, typedResult (withHost [] rs (conclude r s)) = .ok (r.mapError fun _ => .cipherOperationFailed, t) := by
  cases r with
  | ok b =>
    have hidle := h.idle_deliver b (hok b rfl)
    obtain ⟨t, ht⟩ := typedResult_ok (hidle.sizes.sizes_withHost [] rs) hidle.rest.busy h.quiet.err
    have htake : (withHost [] rs (deliver b s)).dout.take (withHost [] rs (deliver b s)).olen.toNat = b :=
      take_dout_deliver b h.quiet.sizes (hok b rfl)
    rw [htake] at ht
    exact ⟨t, ht⟩
  | error e =>
    obtain ⟨sub, rfl⟩ := herr e rfl
    obtain ⟨t, ht⟩ := typedResult_error (s := withHost [] rs (failAtStart (cipherFailed sub) s)) h.rest.busy rfl
    have hkind : errKindOf (((withHost [] rs (failAtStart (cipherFailed sub) s)).errcode.setWidth 32).extractLsb' 0 8) =
        some .cipherOperationFailed := errKindOf_cipherFailed sub
    rw [hkind] at ht
    exact ⟨t, ht⟩

end

/-! ### `KEY`, `KSN` and `DATA` one after the other (R98) -/

section
variable {key ksn b : List Byte} {s : State}

/-- `KEY` gives the block its key operand and keeps its KSN; the parameters are no register. -/
theorem exists_stmtKey (hinv : s.inv = true) (hb : s.busy = false) (hlen : b.length ≤ 24) :
    ∃ t, hostDo (stmtKey b) s = .ok t ∧ Holds b s.ksn t ∧ t.params = s.params := by
  have hdo := hostDo_stmtKey hb b hlen
  obtain ⟨t, env, hrun, hholds⟩ := endsIn_key (v := .functional) (env := HostEnv.start []) (src := .hex b) (rest := [])
    (Q := fun t _ => Holds b s.ksn t) hinv hb rfl hlen fun t h => endsIn_nil h
  rw [runStmts_cons, runStmt_key rfl hlen hdo] at hrun
  cases hrun
  exact ⟨_, hdo, hholds, rfl⟩

/-- `KSN` gives the block its KSN and keeps its key operand. -/
theorem Holds.exists_stmtKsn (h : Holds key ksn s) (hlen : b.length = 10) :
    ∃ t, hostDo (stmtKsn b) s = .ok t ∧ Holds key b t ∧ t.params = s.params := by
  have hdo := hostDo_stmtKsn h.busy b hlen
  obtain ⟨t, env, hrun, hholds⟩ := h.endsIn_ksn (v := .functional) (env := HostEnv.start []) (rest := [])
    (Q := fun t _ => Holds key b t) hlen fun t h => endsIn_nil h
  rw [runStmts_cons, runStmt_ksn hlen hdo] at hrun
  cases hrun
  exact ⟨_, hdo, hholds, rfl⟩

theorem hostDo_stmtData (hb : s.busy = false) (b : List Byte) (hlen : b.length ≤ 1008) :
    hostDo (stmtData b) s =
      .ok { s with agenda := [], din := loadArray s.din b, dlen := (BitVec.ofNat 32 b.length).setWidth 11 } := by
  refine (hostDo_writeArray .din b _ s hb (by simp only [OperandArray.room]; omega)).trans ?_
  rw [hostDo_single]
  exact hostWrite_idle (s := { s with din := loadArray s.din b, agenda := [] }) (addr := 0x010) (r := .dlen) hb rfl
    nofun _

/-- `DATA` gives the block its data operand and keeps its key operand and its KSN. -/
theorem Holds.exists_stmtData (h : Holds key ksn s) (hlen : b.length ≤ s.params.dataMax) :
    ∃ t, hostDo (stmtData b) s = .ok t ∧ Holds key ksn t ∧ dataOperand t = b ∧ t.dlen.toNat = b.length ∧
      t.params = s.params := by
  have hs := ((inv_iff_idle s h.busy).1 h.inv).sizes
  obtain ⟨-, -, hmax⟩ := doutMax_bounds s.params hs.params
  have hdo := hostDo_stmtData h.busy b (hlen.trans hmax)
  have hdlen : ((BitVec.ofNat 32 b.length).setWidth 11).toNat = b.length := by
    rw [BitVec.toNat_setWidth, BitVec.toNat_ofNat]
    omega
  refine ⟨_, hdo, ⟨inv_hostDo h.inv hdo, h.busy, rfl, h.keyOperand, h.klen, h.ksn⟩, ?_, hdlen, rfl⟩
  rw [dataOperand, hdlen]
  exact take_loadArray s.din b (by rw [hs.din]; exact hlen)

end

theorem runStmt_data {v : View} {s t : State} {env : HostEnv} {b : List Byte} (hlen : b.length ≤ s.params.dataMax)
    (h : hostDo (stmtData b) s = .ok t) : runStmt v (.data (.hex b)) s env = .ok (t, env) := by
  simp only [runStmt, sourceBytes, writeChecked, hlen, h, Bind.bind, Except.bind, decide_true, if_true]

/-! ### The procedure (R265) -/

/-- The operand statements of the procedure leave the block with the operands they name. -/
theorem exists_runStmts_operands {s : State} {bdk ksn ct : List Byte} (v : View) (env : HostEnv) (hinv : s.inv = true)
    (hb : s.busy = false) (hbdk : bdk.length ≤ 24) (hksn : ksn.length = 10) (hct : ct.length ≤ s.params.dataMax) :
    ∃ t, Holds bdk ksn t ∧ dataOperand t = ct ∧ t.dlen.toNat = ct.length ∧ t.params = s.params ∧
      ∀ rest, runStmts v (.key (.hex bdk) :: .ksn ksn :: .data (.hex ct) :: rest) s env = runStmts v rest t env := by
  obtain ⟨t1, hdo1, h1, hp1⟩ := exists_stmtKey hinv hb hbdk
  obtain ⟨t2, hdo2, h2, hp2⟩ := h1.exists_stmtKsn hksn
  rw [← hp1, ← hp2] at hct
  obtain ⟨t3, hdo3, h3, hdata, hdlen, hp3⟩ := h2.exists_stmtData hct
  refine ⟨t3, h3, hdata, hdlen, (hp3.trans hp2).trans hp1, fun rest => ?_⟩
  rw [runStmts_cons, runStmt_key rfl hbdk hdo1]
  dsimp only
  rw [runStmts_cons, runStmt_ksn hksn hdo2]
  dsimp only
  rw [runStmts_cons, runStmt_data hct hdo3]

/-- `RUN DECRYPT_TRACK` in the functional view (R98, R260): one poll, and the block ends as `decrypt` says. -/
theorem Holds.exists_runStmts_decryptTrack {bdk ksn : List Byte} {s : State} {env : HostEnv} (h : Holds bdk ksn s)
    (hbdk : bdk.length = 16 ∨ bdk.length = 24) (hd : s.dlen.toNat ≤ s.params.dataMax) (hne : env.polls ≠ []) :
    ∃ rs env', runStmts .functional [.run .decryptTrack] s env = .ok
      (withHost [] rs (conclude (decrypt s.params.decUnpad .aes (deriveKey bdk ksn) (dataOperand s))
        (beginCommand (encode .decryptTrack) s)), env') := by
  have hidle := (inv_iff_idle s h.busy).1 h.inv
  have hself : ({ s with agenda := [] } : State) = s := by rw [← h.agenda]
  have hexec := exec_decryptTrack hidle.sizes h.busy (by rw [h.klen]; exact hbdk) hd
  rw [trackResult, h.keyOperand, h.ksn] at hexec
  obtain ⟨k, -, -, hrun⟩ := runStmt_run_ends (v := .functional) (env := env) h.inv h.busy
    ((congrArg (exec .decryptTrack) hself).trans hexec) hne (.inl rfl)
  rw [runStmts_cons, hrun]
  exact ⟨_, _, rfl⟩

/-- The procedure for decoded operands is its script and then the typed result, rendered (R265, R266). -/
theorem decryptTrackBytes_eq {v : View} {polls : List Nat} {ct ksn bdk : List Byte} {s t u : State} {env : HostEnv}
    {r : Except ErrKind (List Byte)}
    (hrun : runStmts v [.key (.hex bdk), .ksn ksn, .data (.hex ct), .run .decryptTrack] s (HostEnv.start polls) =
      .ok (t, env))
    (hr : typedResult t = .ok (r, u)) : decryptTrackBytes v polls ct ksn bdk s = .ok (r.bind hexToAscii, u) := by
  simp only [decryptTrackBytes, hrun, hr, Bind.bind, Except.bind]
  cases r <;> rfl

end Sys2Proof.Machine
end

section
/-! The statements of the cipher engine's family: O47, O48, O58, O13, O14, O16, O17, O24, O49, O50. -/

open Sys2Proof Sys2Proof.Machine

/-- Settles O47: the rounds of each algorithm run backwards under the round keys in reverse. -/
theorem blockCiphersInvert : Obligations.BlockCiphersInvert := fun _ _ _ hk hx =>
  ⟨blockDecrypt_blockEncrypt hk hx, blockEncrypt_blockDecrypt hk hx⟩

/-- Settles O48: ECB and the padding undo themselves where the block function does. -/
theorem decryptEncryptRoundTrip : Obligations.DecryptEncryptRoundTrip := by
  intro alg key data c p hk
  rw [encrypt_eq_ok alg key data hk, encrypt_eq_ok alg key p hk]
  refine ⟨?_, fun h => congrArg _ (ecbEncrypt_of_decrypt hk h)⟩
  rintro ⟨⟩
  exact decrypt_ecbEncrypt hk data

/-- Settles O58: the operands are loaded, `DECRYPT_TRACK` ends as `decrypt` says, and the host reads that end. -/
theorem decryptTrackProcedure : Obligations.DecryptTrackProcedure := by
  intro s polls ctHex ksnHex ct ksn bdk hinv hb hpolls hbdk hct hksn hksnlen hctlen
  obtain ⟨t, hload, hdata, hdlen, hparams, hrest⟩ := exists_runStmts_operands .functional (HostEnv.start polls) hinv hb
    (by omega : bdk.length ≤ 24) hksnlen hctlen
  obtain ⟨rs, env, hrun⟩ := hload.exists_runStmts_decryptTrack (env := HostEnv.start polls) hbdk
    (by rw [hdlen, hparams]; exact hctlen) hpolls
  have hbegun := begun_beginCommand (encode .decryptTrack) ((inv_iff_idle t hload.busy).1 hload.inv)
  rw [hdata, hparams] at hrun
  obtain ⟨u, hu⟩ := typedResult_conclude (r := decrypt s.params.decUnpad .aes (deriveKey bdk ksn) ct) hbegun
    (fun b h => by
      have hle := decrypt_length_le _ _ _ _ _ h
      rw [beginCommand_params, hparams, Params.doutMax]
      omega)
    (fun e h => exists_eq_cipherFailed h) rs
  refine ⟨u, ?_⟩
  rw [Sys2Proof.Machine.decryptTrack, hct, hksn]
  simp only [hksnlen, ne_eq, not_true_eq_false, if_false, hctlen.not_gt]
  rw [decryptTrackBytes_eq ((hrest _).trans hrun) hu]
  cases decrypt s.params.decUnpad .aes (deriveKey bdk ksn) ct <;> rfl

/-- Settles O13: one lemma for the three algorithms. -/
theorem encryptCommands : Obligations.EncryptCommands := by
  intro s hinv hb hd
  have hs := ((inv_iff_idle s hb).1 hinv).sizes
  exact ⟨fun hk => exec_encOf (alg := .des) hs hb hd (congrArg BitVec.toNat hk),
    fun hk => exec_encOf (alg := .tdes) hs hb hd (congrArg BitVec.toNat hk),
    fun hk => exec_encOf (alg := .aes) hs hb hd (congrArg BitVec.toNat hk)⟩

/-- Settles O14: one lemma for the three algorithms. -/
theorem decryptCommands : Obligations.DecryptCommands := by
  intro s hinv hb hpos hd
  have hs := ((inv_iff_idle s hb).1 hinv).sizes
  exact ⟨fun hk => exec_decOf (alg := .des) hs hb hpos hd (congrArg BitVec.toNat hk),
    fun hk => exec_decOf (alg := .tdes) hs hb hpos hd (congrArg BitVec.toNat hk),
    fun hk => exec_decOf (alg := .aes) hs hb hpos hd (congrArg BitVec.toNat hk)⟩

/-- Settles O16: the padding, its undoing, and what the undoing accepts, clause by clause. -/
theorem paddingRules : Obligations.PaddingRules := fun d _ hpos hb =>
  ⟨exists_pkcs7Pad_eq d hpos, pkcs7Unpad_pkcs7Pad d hpos hb, pkcs7Unpad_eq_some_iff hb d⟩

/-- Settles O17: the expansion under the three ranges of `KLEN`. -/
theorem expand3desCommand : Obligations.Expand3desCommand := by
  intro s hinv hb
  have hs := ((inv_iff_idle s hb).1 hinv).sizes
  refine ⟨fun h1 h24 => ?_, fun h24 => exec_keyTooLong (i := .expand3des) hb rfl h24, fun h0 => ?_⟩
  · have hlegal : legalKlen .expand3des s.klen.toNat = true := by simp [legalKlen, h1, h24]
    exact exec_eq_endedWell hb (startError_none .expand3des s hlegal rfl) nofun
      (congrArg Except.ok (expand3DES_keyOperand hs h1 h24))
  · have hk : s.klen.toNat = 0 := congrArg BitVec.toNat h0
    exact exec_of_startError hb (startError_illegalKlen (fun h => absurd h.2 (by omega))
      (fun h => absurd h.1 (by decide)) (by rw [hk]; rfl))

/-- Settles O24: a decryption under the derived key, which always has the length of an AES key. -/
theorem decryptTrackCommand : Obligations.DecryptTrackCommand := by
  intro s hinv hb hk hpos hmod hd
  have hs := ((inv_iff_idle s hb).1 hinv).sizes
  have he := startError_decryptTrack (hk.imp (congrArg BitVec.toNat) (congrArg BitVec.toNat)) hpos hmod hd
  have hresult : commandResult .decryptTrack s =
      decrypt s.params.decUnpad .aes (deriveKey (keyOperand s) s.ksn) (dataOperand s) := rfl
  exact exec_decrypt (i := .decryptTrack) (alg := .aes) (key := deriveKey (keyOperand s) s.ksn) hs hb hpos hd hmod nofun
    he (deriveKey_length _ _) hresult

/-- Settles O49: the first block law, whose block functions give 8 bytes under any key. -/
theorem firstBlockLaw : Obligations.FirstBlockLaw := fun key _ hd =>
  ⟨take_ecbEncrypt (alg := .des) (fun x _ => desE_length key x) hd,
    take_ecbEncrypt (alg := .tdes) (fun x _ => tdesE_length key x) hd⟩

/-- Settles O50: the three keys are one, and the middle step undoes the first. -/
theorem tripleDesOfEqualKeysIsDes : Obligations.TripleDesOfEqualKeysIsDes := by
  intro k x hk hx
  have hthird : ∀ n < 3, keyThird n (k ++ k ++ k) = k := fun _ hn => keyThird_repeated hk hn
  rw [tdesE, tdesD, hthird 0 (by decide), hthird 1 (by decide), hthird 2 (by decide), desD_desE hx, desE_desD hx]
  exact ⟨rfl, rfl⟩

end

section
/-! SUPPORT. The parity bits of a DES key (R165): `PC1` is the only reader of the key, and it selects no least significant
bit of a key byte. -/

namespace Sys2Proof.Machine

/-- R160: bit `j` of a block, counted from 0 at the left, is bit `j % 8` of byte `j / 8`. -/
theorem blockBits_getMsbD {b : List Byte} (hb : b.length = 8) {j : Nat} (hj : j < 64) :
    (blockBits b).getMsbD j = (b.getD (j / 8) 0#8).getMsbD (j % 8) := by
  have hbyte : b.getD (j / 8) 0#8 = BitVec.ofNat 8 (val b / 2 ^ (8 * (7 - j / 8))) := by
    have h := bytesN_getD b.length (val b) (j / 8) (by omega)
    rw [bytesN_val, hb] at h
    rw [h, Nat.pow_mul]
  have hlt : j % 8 < 8 := Nat.mod_lt _ (by decide)
  have hplace : 8 * (7 - j / 8) + (8 - 1 - j % 8) = 64 - 1 - j := by omega
  rw [hbyte, blockBits, BitVec.getMsbD_eq_getLsbD, BitVec.getMsbD_eq_getLsbD, BitVec.getLsbD_ofNat,
    BitVec.getLsbD_ofNat, Nat.testBit_div_two_pow, Nat.add_comm, hplace]
  simp only [hj, hlt, show 64 - 1 - j < 64 by omega, show 8 - 1 - j % 8 < 8 by omega]

/-- Two bytes equal above their least significant bit agree in the 7 bits from the left. -/
theorem getMsbD_eq_of_div_two_eq {a b : Byte} (h : a.toNat / 2 = b.toNat / 2) {i : Nat} (hi : i < 7) :
    a.getMsbD i = b.getMsbD i := by
  obtain ⟨n, hn⟩ : ∃ n, 8 - 1 - i = n + 1 := ⟨6 - i, by omega⟩
  rw [BitVec.getMsbD_eq_getLsbD, BitVec.getMsbD_eq_getLsbD, hn, BitVec.getLsbD, BitVec.getLsbD, Nat.testBit_succ,
    Nat.testBit_succ, h]

/-- A permutation table reads only the bits it selects (R161). -/
theorem permute_congr {n m : Nat} {t : List Nat} {x y : BitVec n} (ht : t.length = m)
    (h : ∀ i < m, x.getMsbD (t.getD i 0 - 1) = y.getMsbD (t.getD i 0 - 1)) : permute m t x = permute m t y :=
  BitVec.eq_of_getMsbD_eq fun i hi => by rw [permute_getMsbD t x ht i hi, permute_getMsbD t y ht i hi, h i hi]

/-- R165: `PC1` never selects key bits 8, 16, ..., 64. -/
theorem tablePC1_skips_parity : ∀ i < 56, tablePC1.getD i 0 - 1 < 64 ∧ (tablePC1.getD i 0 - 1) % 8 < 7 := by decide

/-- R165, R166: keys of 64 bits that agree off their parity bits have the same round keys. -/
theorem desRoundKeys_congr {x y : BitVec 64} (h : ∀ j < 64, j % 8 < 7 → x.getMsbD j = y.getMsbD j) :
    desRoundKeys x = desRoundKeys y := by
  have hPC1 : permute 56 tablePC1 x = permute 56 tablePC1 y :=
    permute_congr rfl fun i hi =>
      have ⟨hlt, hskip⟩ := tablePC1_skips_parity i hi
      h _ hlt hskip
  rw [desRoundKeys, desRoundKeys, hPC1]

end Sys2Proof.Machine
end

section
/-! The statement of the DES family: O51. -/

open Sys2Proof Sys2Proof.Machine

/-- Settles O51: the two keys have the same round keys, and both directions read the key only through them. -/
theorem parityBitsIgnored : Obligations.ParityBitsIgnored := by
  intro k1 k2 x hk1 hk2 hbytes
  have hkeys : desRoundKeys (blockBits k1) = desRoundKeys (blockBits k2) := by
    refine desRoundKeys_congr fun j hj hparity => ?_
    rw [blockBits_getMsbD hk1 hj, blockBits_getMsbD hk2 hj]
    exact getMsbD_eq_of_div_two_eq (hbytes (j / 8) (by omega)) hparity
  simp only [desE, desD, hkeys, and_self]

end

section
/-! SUPPORT. The derivation's masks as arithmetic (R97, R200): keeping or clearing the low 21 bits of a value, and what
that makes of the KSN. -/

namespace Sys2Proof.Machine

/-! ### Low bits of a number -/

/-- `v` with its bits `n - 1` to 0 cleared. -/
def clearBelow (n v : Nat) : Nat := v / 2 ^ n * 2 ^ n

theorem clearBelow_zero (v : Nat) : clearBelow 0 v = v := by simp [clearBelow]

theorem testBit_clearBelow (n v i : Nat) : (clearBelow n v).testBit i = (decide (n ≤ i) && v.testBit i) := by
  rw [clearBelow, Nat.testBit_mul_two_pow]
  by_cases h : n ≤ i
  · rw [Nat.testBit_div_two_pow, Nat.sub_add_cancel h]
  · simp [h]

/-- Clearing bits twice clears those of the longer run. -/
theorem clearBelow_clearBelow {n m : Nat} (h : n ≤ m) (v : Nat) : clearBelow m (clearBelow n v) = clearBelow m v := by
  refine Nat.eq_of_testBit_eq fun i => ?_
  simp only [testBit_clearBelow]
  by_cases hm : m ≤ i
  · simp [h.trans hm]
  · simp [hm]

theorem clearBelow_mod_two_pow (n v m : Nat) : clearBelow n v % 2 ^ m = clearBelow n (v % 2 ^ m) := by
  refine Nat.eq_of_testBit_eq fun i => ?_
  simp only [Nat.testBit_mod_two_pow, testBit_clearBelow]
  exact Bool.and_left_comm ..

/-- A number whose low bits are clear already. -/
theorem clearBelow_of_mod_eq_zero {n v : Nat} (h : v % 2 ^ n = 0) : clearBelow n v = v :=
  Nat.div_mul_cancel (Nat.dvd_of_mod_eq_zero h)

/-- A set bit is all that clearing one bit more takes away. -/
theorem clearBelow_succ_or {n v : Nat} (h : v.testBit n = true) : clearBelow (n + 1) v ||| 2 ^ n = clearBelow n v := by
  refine Nat.eq_of_testBit_eq fun i => ?_
  rw [Nat.testBit_or, testBit_clearBelow, testBit_clearBelow, Nat.testBit_two_pow]
  rcases lt_trichotomy n i with hi | rfl | hi
  · simp [Nat.succ_le_of_lt hi, hi.le, hi.ne]
  · simp [h]
  · simp [hi.not_ge, hi.ne', show ¬n + 1 ≤ i by omega]

/-- Clearing a clear bit changes nothing. -/
theorem clearBelow_succ {n v : Nat} (h : v.testBit n = false) : clearBelow (n + 1) v = clearBelow n v := by
  refine Nat.eq_of_testBit_eq fun i => ?_
  rw [testBit_clearBelow, testBit_clearBelow]
  rcases lt_trichotomy n i with hi | rfl | hi
  · simp [Nat.succ_le_of_lt hi, hi.le]
  · simp [h]
  · simp [hi.not_ge, show ¬n + 1 ≤ i by omega]

/-- A mask of ones above `n` zeros clears the low `n` bits. -/
theorem and_ones_mul_two_pow {v m n : Nat} (hv : v < 2 ^ (m + n)) : v &&& (2 ^ m - 1) * 2 ^ n = clearBelow n v := by
  have hdiv : v / 2 ^ n < 2 ^ m := Nat.div_lt_of_lt_mul (by rwa [← pow_add, Nat.add_comm])
  rw [← Nat.div_add_mod' (v &&& _) (2 ^ n), Nat.and_div_two_pow, Nat.and_mod_two_pow,
    Nat.mul_div_cancel _ (Nat.two_pow_pos n), Nat.mul_mod_left, Nat.and_zero, Nat.and_two_pow_sub_one_eq_mod,
    Nat.mod_eq_of_lt hdiv, Nat.add_zero, clearBelow]

/-- Bitwise and acts separately on the bits from `n` up and on those below. -/
theorem mul_two_pow_add_and {n x y : Nat} (hx : x < 2 ^ n) (hy : y < 2 ^ n) (a b : Nat) :
    (a * 2 ^ n + x) &&& (b * 2 ^ n + y) = (a &&& b) * 2 ^ n + (x &&& y) := by
  have hdiv : ∀ c z, z < 2 ^ n → (c * 2 ^ n + z) / 2 ^ n = c := fun c z hz => by
    rw [Nat.mul_comm, Nat.mul_add_div (Nat.two_pow_pos n), Nat.div_eq_of_lt hz, Nat.add_zero]
  rw [← Nat.div_add_mod' ((a * 2 ^ n + x) &&& _) (2 ^ n), Nat.and_div_two_pow, Nat.and_mod_two_pow, hdiv a x hx,
    hdiv b y hy, Nat.mul_add_mod_of_lt hx, Nat.mul_add_mod_of_lt hy]

/-! ### `and` on values (R112) -/

theorem val_zipWith_and {a b : List Byte} (h : a.length = b.length) :
    val (a.zipWith (fun x y => x &&& y) b) = val a &&& val b := by
  induction a generalizing b with
  | nil => simp
  | cons x a ih =>
    cases b with
    | nil => cases h
    | cons y b =>
      rw [List.length_cons, List.length_cons, Nat.succ_inj] at h
      have hpow : ∀ c : List Byte, 256 ^ c.length = 2 ^ (8 * c.length) := fun c => by rw [Nat.pow_mul]
      have ha := val_lt a
      have hb := val_lt b
      rw [List.zipWith_cons_cons, val_cons, val_cons, val_cons, ih h, BitVec.toNat_and, List.length_zipWith, ← h,
        Nat.min_self, hpow, mul_two_pow_add_and (hpow a ▸ ha) (by rw [h, ← hpow]; exact hb)]

/-- R112 for operands of one length: `and` is the bitwise and of the values. -/
theorem val_andBytes {a b : List Byte} (h : a.length = b.length) : val (andBytes a b) = val a &&& val b := by
  rw [andBytes_of_length_eq h, val_zipWith_and h]

theorem last8_eq_drop {b : List Byte} {n : Nat} (h : b.length = n + 8) : last8 b = b.drop n := by
  rw [last8, h, Nat.add_sub_cancel]

/-! ### The masked KSN (R201, R205, R206) -/

section
variable {ksn : List Byte}

/-- R206: `KSN[2..9]` is the KSN's low 64 bits. -/
theorem val_last8 (h : ksn.length = 10) : val (last8 ksn) = val ksn % 2 ^ 64 := by
  rw [last8_eq_drop h, val_drop, h, show (256 : Nat) ^ (10 - 2) = 2 ^ 64 from rfl]

/-- R201: `KSN_MASK10` clears the low 21 bits. -/
theorem val_and_ksnMask10 (h : ksn.length = 10) : val (andBytes ksn ksnMask10) = clearBelow 21 (val ksn) := by
  have hmask : val ksnMask10 = (2 ^ 59 - 1) * 2 ^ 21 := val_bytesN 10 _
  have hlt := val_lt ksn
  rw [h, show (256 : Nat) ^ 10 = 2 ^ (59 + 21) from rfl] at hlt
  rw [val_andBytes h, hmask, and_ones_mul_two_pow hlt]

/-- R206: the base KSN is `KSN[2..9]` with the low 21 bits cleared. -/
theorem val_baseKSN (h : ksn.length = 10) : val (baseKSN ksn) = clearBelow 21 (val (last8 ksn)) := by
  have hmask : val ksnMask8 = (2 ^ 43 - 1) * 2 ^ 21 := val_bytesN 8 _
  have hlt : val (last8 ksn) < 2 ^ (43 + 21) := by rw [val_last8 h]; exact Nat.mod_lt _ (Nat.two_pow_pos _)
  rw [baseKSN, val_andBytes (by rw [last8_length, h]; rfl), hmask, and_ones_mul_two_pow hlt]

/-- R205: the counter is the KSN's low 21 bits. -/
theorem val_getCounterBits (h : ksn.length = 10) : val (getCounterBits ksn) = val ksn % 2 ^ 21 := by
  have hmask : val ctrMask = 2 ^ 21 - 1 := val_bytesN 3 _
  have hlow : val (low3BytesOf ksn) = val ksn % 2 ^ 24 := by
    rw [low3BytesOf, val_drop, h, show (256 : Nat) ^ (10 - (10 - 3)) = 2 ^ 24 from rfl]
  rw [getCounterBits, val_andBytes (by rw [low3BytesOf_length, h]; rfl), hmask, Nat.and_two_pow_sub_one_eq_mod, hlow,
    Nat.mod_mod_of_dvd _ (pow_dvd_pow 2 (by decide))]

/-- R205, R214: the counter in 3 bytes. -/
theorem getCounterBits_eq (h : ksn.length = 10) : getCounterBits ksn = bytesN 3 (val ksn % 2 ^ 21) := by
  have hbytes := bytesN_val (getCounterBits ksn)
  rw [getCounterBits_length, val_getCounterBits h] at hbytes
  exact hbytes.symm

/-- R35: the counter as a number. -/
theorem toNat_counterOf (h : ksn.length = 10) : (counterOf ksn).toNat = val ksn % 2 ^ 21 := by
  rw [counterOf, BitVec.toNat_ofNat, val_getCounterBits h, Nat.mod_mod]

/-- R202: the first 8 bytes of the masked KSN. -/
theorem first8_and_ksnMask10 (h : ksn.length = 10) :
    first8 (andBytes ksn ksnMask10) = ksn.take 7 ++ [ksn.getD 7 0#8 &&& 0xE0#8] := by
  have hmask : ksnMask10 = [0xFF#8, 0xFF#8, 0xFF#8, 0xFF#8, 0xFF#8, 0xFF#8, 0xFF#8, 0xE0#8, 0x00#8, 0x00#8] := by decide
  have hones : ∀ x : Byte, x &&& 0xFF#8 = x := fun x => BitVec.and_allOnes
  rw [andBytes_of_length_eq h, hmask]
  match ksn, h with
  | [k0, k1, k2, k3, k4, k5, k6, k7, k8, k9], _ => simp [first8, hones]

end

end Sys2Proof.Machine
end

section
/-! SUPPORT. The working-key loop of R210 in closed form: what each position does to the key depends on `KSN[2..9]`
alone (R211), and the keys along the loop are the working keys of the KSN with its low bits cleared (R243). -/

namespace Sys2Proof.Machine

/-! ### One position of the loop -/

/-- R211: what position `n` of the loop does to the key, for the KSN's low 64 bits `w`. -/
def keyStep (w n : Nat) (cur : List Byte) : List Byte :=
  if w.testBit n then generateKey cur (bytesN 8 (clearBelow n w)) else cur

/-- R211: the key after the positions 20 down to `n` of the loop. -/
def keyAbove (w n : Nat) (ipek : List Byte) : List Byte := (List.range' n (21 - n)).foldr (keyStep w) ipek

theorem keyAbove_top (w : Nat) (ipek : List Byte) : keyAbove w 21 ipek = ipek := rfl

theorem keyAbove_step {n : Nat} (hn : n < 21) (w : Nat) (ipek : List Byte) :
    keyAbove w n ipek = keyStep w n (keyAbove w (n + 1) ipek) := by
  have hlen : 21 - n = 21 - (n + 1) + 1 := by omega
  rw [keyAbove, hlen, List.range'_succ]
  rfl

theorem keyStep_of_testBit_eq_false {w n : Nat} (h : w.testBit n = false) (cur : List Byte) :
    keyStep w n cur = cur := by
  simp [keyStep, h]

/-- Position `n` reads no bit below `n`. -/
theorem keyStep_clearBelow {m n : Nat} (h : m ≤ n) (w : Nat) (cur : List Byte) :
    keyStep (clearBelow m w) n cur = keyStep w n cur := by
  rw [keyStep, keyStep, testBit_clearBelow, clearBelow_clearBelow h, decide_eq_true h, Bool.true_and]

theorem keyAbove_clearBelow (n w : Nat) (ipek : List Byte) : keyAbove (clearBelow n w) n ipek = keyAbove w n ipek :=
  List.foldr_ext _ _ _ fun _ hi cur => keyStep_clearBelow (List.mem_range'_1.1 hi).1 w cur

/-- Positions whose bits are clear leave the key alone. -/
theorem keyAbove_zero_eq {n w : Nat} (hn : n ≤ 21) (h : ∀ i < n, w.testBit i = false) (ipek : List Byte) :
    keyAbove w 0 ipek = keyAbove w n ipek := by
  induction n with
  | zero => rfl
  | succ n ih =>
    rw [ih (by omega) fun i hi => h i (by omega), keyAbove_step (by omega),
      keyStep_of_testBit_eq_false (h n (by omega))]

/-- With the bits below `n` cleared, the loop ends with the key it has after position `n`. -/
theorem keyAbove_zero_clearBelow {n : Nat} (hn : n ≤ 21) (w : Nat) (ipek : List Byte) :
    keyAbove (clearBelow n w) 0 ipek = keyAbove w n ipek := by
  rw [keyAbove_zero_eq hn (fun i hi => by rw [testBit_clearBelow, decide_eq_false hi.not_ge, Bool.false_and]),
    keyAbove_clearBelow]

/-- R210: the register takes up the bit of its position. -/
theorem toNat_or_one_shiftLeft {w n : Nat} {k : BitVec 64} (hn : n < 64) (hk : k.toNat = clearBelow (n + 1) w)
    (hbit : w.testBit n = true) : (k ||| 1#64 <<< n).toNat = clearBelow n w := by
  rw [BitVec.toNat_or, toNat_one_shiftLeft hn, hk, clearBelow_succ_or hbit]

/-- R210, R211: the loop over the positions `m - 1` to 0 is a fold of their key steps. -/
theorem workingKeyLoop_eq_foldr {c : BitVec 21} {w m : Nat} (hm : m ≤ 21)
    (hc : ∀ i < m, c.getLsbD i = w.testBit i) (k : BitVec 64) (hk : k.toNat = clearBelow m w) (cur : List Byte) :
    workingKeyLoop c m k cur = (List.range m).foldr (keyStep w) cur := by
  induction m generalizing k cur with
  | zero => rfl
  | succ m ih =>
    have hbit := hc m (Nat.lt_succ_self m)
    have hrest := ih (by omega) fun i hi => hc i (by omega)
    rw [List.range_succ, List.foldr_append, List.foldr_cons, List.foldr_nil, keyStep]
    cases hw : w.testBit m with
    | true =>
      have hk' := toNat_or_one_shiftLeft (by omega) hk hw
      rw [workingKeyLoop_set c m k cur (hbit.trans hw), hrest _ hk', hk', if_pos rfl]
    | false =>
      rw [workingKeyLoop_clear c m k cur (hbit.trans hw), hrest k (hk.trans (clearBelow_succ hw)),
        if_neg Bool.false_ne_true]

/-! ### The working key of a KSN -/

/-- R243: the KSN with its bits `n - 1` to 0 cleared. -/
def clearKsn (n : Nat) (ksn : List Byte) : List Byte := bytesN 10 (clearBelow n (val ksn))

section
variable {ksn : List Byte}

@[simp] theorem clearKsn_length (n : Nat) (ksn : List Byte) : (clearKsn n ksn).length = 10 := bytesN_length 10 _

theorem val_clearKsn (h : ksn.length = 10) (n : Nat) : val (clearKsn n ksn) = clearBelow n (val ksn) := by
  have hle : clearBelow n (val ksn) ≤ val ksn := Nat.div_mul_le_self _ _
  rw [clearKsn, val_bytesN, Nat.mod_eq_of_lt (hle.trans_lt (h ▸ val_lt ksn))]

theorem clearKsn_eq_self (h : ksn.length = 10) {n : Nat} (hn : val ksn % 2 ^ n = 0) : clearKsn n ksn = ksn :=
  val_injective ((clearKsn_length n ksn).trans h.symm) ((val_clearKsn h n).trans (clearBelow_of_mod_eq_zero hn))

theorem clearKsn_zero (h : ksn.length = 10) : clearKsn 0 ksn = ksn := clearKsn_eq_self h (Nat.mod_one _)

theorem val_last8_clearKsn (h : ksn.length = 10) (n : Nat) :
    val (last8 (clearKsn n ksn)) = clearBelow n (val (last8 ksn)) := by
  rw [val_last8 (clearKsn_length n ksn), val_clearKsn h, clearBelow_mod_two_pow, val_last8 h]

/-- The counter's bits are those of `KSN[2..9]`. -/
theorem testBit_counter (h : ksn.length = 10) {c : BitVec 21} (hc : c.toNat = val ksn % 2 ^ 21) {i : Nat}
    (hi : i < 21) : c.getLsbD i = (val (last8 ksn)).testBit i := by
  rw [BitVec.getLsbD, hc, val_last8 h, Nat.testBit_mod_two_pow, Nat.testBit_mod_two_pow, decide_eq_true hi,
    decide_eq_true (hi.trans (by decide))]

/-- R35: the KSN register as `WK_INIT` loads it. -/
theorem toNat_baseKSN (h : ksn.length = 10) :
    (BitVec.ofNat 64 (val (baseKSN ksn))).toNat = clearBelow 21 (val (last8 ksn)) := by
  have hlt := val_lt (baseKSN ksn)
  rw [baseKSN_length, show (256 : Nat) ^ 8 = 2 ^ 64 from rfl] at hlt
  rw [BitVec.toNat_ofNat, Nat.mod_eq_of_lt hlt, val_baseKSN h]

/-- R211, R212: the working key reads the KSN only through `KSN[2..9]`. -/
theorem deriveWorkingKey_eq (h : ksn.length = 10) (ipek : List Byte) :
    deriveWorkingKey ksn ipek = keyAbove (val (last8 ksn)) 0 ipek := by
  rw [deriveWorkingKey, workingKeyLoop_eq_foldr le_rfl (fun i hi => testBit_counter h (toNat_counterOf h) hi) _
    (toNat_baseKSN h), List.range_eq_range', keyAbove]

/-- R243: the key after position `n` is the working key of the KSN with the bits below `n` cleared. -/
theorem deriveWorkingKey_clearKsn (h : ksn.length = 10) {n : Nat} (hn : n ≤ 21) (ipek : List Byte) :
    deriveWorkingKey (clearKsn n ksn) ipek = keyAbove (val (last8 ksn)) n ipek := by
  rw [deriveWorkingKey_eq (clearKsn_length n ksn), val_last8_clearKsn h, keyAbove_zero_clearBelow hn]

/-- R212: a zero counter gives the IPEK back. -/
theorem deriveWorkingKey_of_counter_zero (h : ksn.length = 10) (hc : val ksn % 2 ^ 21 = 0) (ipek : List Byte) :
    deriveWorkingKey ksn ipek = ipek := by
  have hkey := deriveWorkingKey_clearKsn h (le_refl 21) ipek
  rwa [clearKsn_eq_self h hc, keyAbove_top] at hkey

/-- R243: clearing one counter bit less takes the working key one key step further. -/
theorem deriveWorkingKey_clearKsn_step (h : ksn.length = 10) {n : Nat} (hn : n < 21) (ipek : List Byte) :
    deriveWorkingKey (clearKsn n ksn) ipek =
      keyStep (val (last8 ksn)) n (deriveWorkingKey (clearKsn (n + 1) ksn) ipek) := by
  rw [deriveWorkingKey_clearKsn h hn.le, deriveWorkingKey_clearKsn h hn, keyAbove_step hn]

end

/-! ### The loop invariant (R243) -/

section
variable {s : State} {ipek : List Byte}

/-- R243 over the named functions. -/
theorem loopInv_iff (s : State) (k : Nat) (ipek : List Byte) :
    s.loopInv k ipek ↔
      s.sr = 1#21 <<< k ∧ s.ctr.toNat = val s.ksn % 2 ^ 21 ∧ s.ksnr.toNat = clearBelow (k + 1) (val (last8 s.ksn)) ∧
        s.curkey = deriveWorkingKey (clearKsn (k + 1) s.ksn) ipek := Iff.rfl

/-- R235: what `WK_INIT` loads meets the invariant at the first position; no key step has run. -/
theorem loopInv_stepWkInit {op : Instr} {t : State} (hksn : s.ksn.length = 10) (h : stepWkInit op s = some t) :
    t.stage = .wkIter ∧ t.loopInv 20 s.curkey := by
  obtain ⟨-, rfl⟩ := stepWkInit_cases op s t h
  refine ⟨rfl, (loopInv_iff _ _ _).2 ⟨srInit_eq, toNat_counterOf hksn, toNat_baseKSN hksn, ?_⟩⟩
  rw [deriveWorkingKey_clearKsn hksn le_rfl, keyAbove_top]

/-- R236, R237: the key step at `SR = 2^k` takes the KSN register and the key past bit `k`. -/
theorem counterBitStep_of_loopInv {k : Nat} (hksn : s.ksn.length = 10) (hk : k < 21) (h : s.loopInv k ipek) :
    (counterBitStep s).ksnr.toNat = clearBelow k (val (last8 s.ksn)) ∧
      (counterBitStep s).curkey = deriveWorkingKey (clearKsn k s.ksn) ipek := by
  obtain ⟨hsr, hctr, hksnr, hcur⟩ := (loopInv_iff _ _ _).1 h
  rw [counterBitStep_ksnr, counterBitStep_curkey, hsr, setWidth_one_shiftLeft hk,
    deriveWorkingKey_clearKsn_step hksn hk, ← hcur, keyStep]
  simp only [and_shift_ne_zero_iff s.ctr hk, testBit_counter hksn hctr hk]
  cases hbit : (val (last8 s.ksn)).testBit k with
  | true =>
    have hreg := toNat_or_one_shiftLeft (by omega) hksnr hbit
    rw [if_pos rfl, if_pos rfl, if_pos rfl, hreg]
    exact ⟨rfl, rfl⟩
  | false =>
    rw [if_neg Bool.false_ne_true, if_neg Bool.false_ne_true, if_neg Bool.false_ne_true, hksnr, clearBelow_succ hbit]
    exact ⟨rfl, rfl⟩

/-- R238: a `WK_ITER` step before the last moves the invariant to the next lower position. -/
theorem loopInv_stepWkIter {op : Instr} {t : State} {k : Nat} (hksn : s.ksn.length = 10) (hk : k < 20)
    (hst : s.stage = .wkIter) (h : s.loopInv (k + 1) ipek) (hstep : stepWkIter op s = some t) :
    t.stage = .wkIter ∧ t.loopInv k ipek := by
  obtain ⟨hreg, hkey⟩ := counterBitStep_of_loopInv hksn (by omega) h
  obtain ⟨hsr, hctr, -, -⟩ := h
  have hshift : s.sr >>> 1 = 1#21 <<< k := by rw [hsr, one_shiftLeft_shiftRight (by omega)]
  have hne : s.sr >>> 1 ≠ 0#21 := hshift ▸ one_shiftLeft_ne_zero (by omega)
  rw [stepWkIter_next op s hne, counterBitStep_eq s] at hstep
  cases hstep
  exact ⟨hst, (loopInv_iff _ _ _).2 ⟨hshift, hctr, hreg, hkey⟩⟩

/-- R238, R243: the step at `SR = 1` leaves the loop with the whole KSN in its register and the working key. -/
theorem stepWkIter_of_loopInv_zero {op : Instr} {t : State} (hksn : s.ksn.length = 10) (h : s.loopInv 0 ipek)
    (hstep : stepWkIter op s = some t) :
    t.stage ≠ .wkIter ∧ t.sr = 0#21 ∧ t.ksnr.toNat = val (last8 s.ksn) ∧ t.curkey = deriveWorkingKey s.ksn ipek := by
  obtain ⟨hreg, hkey⟩ := counterBitStep_of_loopInv hksn (by decide) h
  rw [clearBelow_zero] at hreg
  rw [clearKsn_zero hksn] at hkey
  obtain ⟨hsr, -⟩ := h
  rcases stepWkIter_cases op s t hstep with ⟨hne, -⟩ | ⟨-, -, rfl⟩ | ⟨-, -, rfl⟩
  · exact absurd (by rw [hsr]; decide) hne
  · exact ⟨nofun, rfl, hreg, hkey⟩
  · exact ⟨nofun, rfl, hreg, hkey⟩

end

end Sys2Proof.Machine
end

section
/-! SUPPORT. The derivation functions with the cipher engine unfolded (R202, R207, R213), and their commands' start
checks (R96). -/

namespace Sys2Proof.Machine

section
variable {key ksn : List Byte}

/-- R142 for data of one block, under any key. -/
theorem first8_ecbEncrypt_block {x : List Byte} (hx : x.length = 8) (key : List Byte) :
    first8 (ecbEncrypt .des key x) = desE key x ∧ first8 (ecbEncrypt .tdes key x) = tdesE key x := by
  have h := firstBlockLaw key x hx.ge
  rwa [List.take_of_length_le hx.le] at h

/-- R202: each half of the IPEK is one block encryption of the first 8 bytes of the masked KSN. -/
theorem deriveIPEK_eq (h : ksn.length = 10) (bdk : List Byte) :
    deriveIPEK bdk ksn =
      tdesE (expand3DES bdk) (ksn.take 7 ++ [ksn.getD 7 0#8 &&& 0xE0#8]) ++
        tdesE (expand3DES (xorBytes bdk keyMask)) (ksn.take 7 ++ [ksn.getD 7 0#8 &&& 0xE0#8]) := by
  have hd : 8 ≤ (andBytes ksn ksnMask10).length := by simp [h]
  have hfirst : ∀ k, first8 (ecbEncrypt .tdes k (andBytes ksn ksnMask10)) =
      tdesE k (first8 (andBytes ksn ksnMask10)) := fun k => (firstBlockLaw k _ hd).2
  simp only [deriveIPEK, hfirst, first8_and_ksnMask10 h]

/-- R207: the crypto register is one DES block encryption between two XORs. -/
theorem encryptRegister_eq (hk : key.length = 16) (h : ksn.length = 10) :
    encryptRegister key ksn =
      xorBytes (key.drop 8) (desE (key.take 8) (xorBytes (key.drop 8) (ksn.drop 2))) := by
  have hx : (xorBytes (key.drop 8) (ksn.drop 2)).length = 8 := by simp [hk, h]
  simp only [encryptRegister, last8_eq_drop hk, last8_eq_drop h, (first8_ecbEncrypt_block hx _).1]
  rfl

/-- R213: the masked key encrypts its own two halves. -/
theorem deriveSessionKey_eq (hk : key.length = 16) :
    deriveSessionKey key =
      let masked := xorBytes key dataMask
      let k24 := masked ++ masked.take 8
      tdesE k24 (masked.take 8) ++ tdesE k24 (masked.drop 8) := by
  have hm : (xorBytes key dataMask).length = 16 := by simp [hk]
  have htop : (first8 (xorBytes key dataMask)).length = 8 := by simp [first8, hm]
  have hbottom : ((xorBytes key dataMask).drop 8).length = 8 := by simp [hm]
  simp only [deriveSessionKey, expand3DES_double _ hm, last8_eq_drop hm, (first8_ecbEncrypt_block htop _).2,
    (first8_ecbEncrypt_block hbottom _).2]
  rfl

/-- R202: the IPEK reads the KSN only above its low 21 bits. -/
theorem deriveIPEK_congr {ksn1 ksn2 : List Byte} (h1 : ksn1.length = 10) (h2 : ksn2.length = 10)
    (hv : val ksn1 / 2 ^ 21 = val ksn2 / 2 ^ 21) (bdk : List Byte) : deriveIPEK bdk ksn1 = deriveIPEK bdk ksn2 := by
  have hmasked : andBytes ksn1 ksnMask10 = andBytes ksn2 ksnMask10 :=
    val_injective (by simp [h1, h2]) (by rw [val_and_ksnMask10 h1, val_and_ksnMask10 h2, clearBelow, clearBelow, hv])
  rw [deriveIPEK, deriveIPEK, hmasked]

end

section
variable {s : State}

/-- R96: the derivations from a BDK take 16 or 24 bytes of `KEY`. -/
theorem startError_of_bdk {i : Instr} (hi : i = .deriveIpek ∨ i = .deriveKey) (hk : s.klen = 16#5 ∨ s.klen = 24#5) :
    startError i s = none := by
  rcases hi with rfl | rfl <;> exact startError_none _ s (by rcases hk with h | h <;> rw [h] <;> rfl) rfl

/-- R96: the steps from one key of the derivation to the next take 16 bytes of `KEY`. -/
theorem startError_of_key16 {i : Instr} (hi : i ∈ [Instr.deriveWk, .deriveSk, .genKey, .encReg])
    (hk : s.klen = 16#5) : startError i s = none := by
  simp only [List.mem_cons, List.not_mem_nil, or_false] at hi
  rcases hi with rfl | rfl | rfl | rfl <;> exact startError_none _ s (by rw [hk]; rfl) rfl

/-- R21: the key operand at `KLEN = 16`. -/
theorem keyOperand_of_key16 (hk : s.klen = 16#5) : keyOperand s = s.key.take 16 := by rw [keyOperand, hk]; rfl

end

end Sys2Proof.Machine
end

section
/-! The statements of the DUKPT family: O41, O18, O19, O21, O23, O52, O53, O20, O22. -/

open Sys2Proof Sys2Proof.Machine

/-- Settles O41: the three ways through the loop, from the step that the stage names. -/
theorem workingKeyLoopInvariant : Obligations.WorkingKeyLoopInvariant := by
  intro s t ipek hinv hstep
  obtain ⟨hbusy, -⟩ := engineStep_cases s t hstep
  obtain ⟨op, hrun⟩ := (inv_iff_running s hbusy).1 hinv
  have hksn := hrun.quiet.sizes.ksn
  have hcomp : s.stage ≠ .finish → Computing op s := hrun.computing
  refine ⟨fun hst hcur => ?_, fun k hk hst hloop => ?_, fun hst hloop => ?_⟩
  · rw [(hcomp (by simp [hst])).engineStep_wkInit hst] at hstep
    exact hcur ▸ loopInv_stepWkInit hksn hstep
  · rw [(hcomp (by simp [hst])).engineStep_wkIter hst] at hstep
    exact loopInv_stepWkIter hksn hk hst hloop hstep
  · rw [(hcomp (by simp [hst])).engineStep_wkIter hst] at hstep
    exact stepWkIter_of_loopInv_zero hksn hloop hstep

/-- Settles O18: `GETCTR` has no start check, and its result is the KSN's low 21 bits. -/
theorem getctrCommand : Obligations.GetctrCommand := by
  intro s hinv hb
  have hksn := ((inv_iff_idle s hb).1 hinv).sizes.ksn
  exact exec_eq_endedWell hb (startError_none .getctr s rfl rfl) nofun (congrArg Except.ok (getCounterBits_eq hksn))

/-- Settles O19: only the first block of each encryption is kept. -/
theorem deriveIpekCommand : Obligations.DeriveIpekCommand := by
  intro s hinv hb hk
  have hksn := ((inv_iff_idle s hb).1 hinv).sizes.ksn
  exact exec_eq_endedWell hb (startError_of_bdk (.inl rfl) hk) nofun
    (congrArg Except.ok (deriveIPEK_eq hksn (keyOperand s)))

/-- Settles O21: the expansion of the 16-byte masked key repeats its first half. -/
theorem deriveSkCommand : Obligations.DeriveSkCommand := by
  intro s hinv hb hk
  have hkey : (s.key.take 16).length = 16 := by simp [((inv_iff_idle s hb).1 hinv).sizes.key]
  exact exec_eq_endedWell hb (startError_of_key16 (by decide) hk) nofun (congrArg Except.ok (deriveSessionKey_eq hkey))

/-- Settles O23: `GEN_KEY` is the register of `ENC_REG` twice, first of the masked key. -/
theorem genKeyAndEncRegCommands : Obligations.GenKeyAndEncRegCommands := by
  intro s hinv hb hk
  have hs := ((inv_iff_idle s hb).1 hinv).sizes
  have hkey : (s.key.take 16).length = 16 := by simp [hs.key]
  have hmasked : (xorBytes (s.key.take 16) keyMask).length = 16 := by simp [hkey]
  refine ⟨exec_eq_endedWell hb (startError_of_key16 (by decide) hk) nofun ?_,
    exec_eq_endedWell hb (startError_of_key16 (by decide) hk) nofun ?_⟩
  · change Except.ok (encryptRegister (keyOperand s) s.ksn) = _
    rw [keyOperand_of_key16 hk, encryptRegister_eq hkey hs.ksn]
  · change Except.ok (generateKey (keyOperand s) s.ksn) = _
    rw [keyOperand_of_key16 hk, generateKey, encryptRegister_eq hkey hs.ksn, encryptRegister_eq hmasked hs.ksn]
    rfl

/-- Settles O52: the masked KSN is the same. -/
theorem ipekIgnoresCounter : Obligations.IpekIgnoresCounter := fun bdk _ _ h1 h2 hv => deriveIPEK_congr h1 h2 hv bdk

/-- Settles O53: no key step runs for a zero counter, and every key step reads only `KSN[2..9]`. -/
theorem workingKeyCorners : Obligations.WorkingKeyCorners := by
  intro ksn1 ksn2 ipek h1 h2
  refine ⟨fun hc => deriveWorkingKey_of_counter_zero h1 hc ipek, fun hdrop => ?_⟩
  rw [deriveWorkingKey_eq h1, deriveWorkingKey_eq h2, last8_eq_drop h1, last8_eq_drop h2, hdrop]

/-- Settles O20: `KLEN = 16` passes the start checks. -/
theorem deriveWkCommand : Obligations.DeriveWkCommand := fun _ hb hk =>
  exec_eq_endedWell hb (startError_of_key16 (by decide) hk) nofun rfl

/-- Settles O22: `KLEN` 16 and 24 pass the start checks. -/
theorem deriveKeyCommand : Obligations.DeriveKeyCommand := fun _ hb hk =>
  exec_eq_endedWell hb (startError_of_bdk (.inr rfl) hk) nofun rfl

end

section
/-! SUPPORT. The sequencer's step seen as a transition of `STAGE` and `SR` (R241), that a running command always has one
(R230), and what runs of steps have in common (R242, R247). -/

namespace Sys2Proof.Machine

/-! ### The table of stages (R241) -/

/-- The stage after the engine step of a stage, for the command `op` and the value of `SR` before the step (R241). `IDLE`
has no step. -/
def nextStage (op : Instr) (sr : BitVec 21) : Stage → Stage
  | .idle => .idle
  | .exec => .finish
  | .ipek => if op = .deriveIpek then .finish else .wkInit
  | .wkInit => .wkIter
  | .wkIter => if sr >>> 1 ≠ 0#21 then .wkIter else if op = .deriveWk then .finish else .session
  | .session => if op = .decryptTrack then .track else .finish
  | .track => .finish
  | .finish => .idle

/-- The value of `SR` after the engine step of a stage (R235, R238, R244). -/
def nextSr (sr : BitVec 21) : Stage → BitVec 21
  | .wkInit => srInit
  | .wkIter => sr >>> 1
  | .finish => 0#21
  | _ => sr

/-- What every engine step from `s` to `t` of the command `op` does besides computing: `STAGE` and `SR` move as the table
says, `CMD` stays, and only `FINISH` ends the command and shows its result (R241, R244). -/
structure Advances (op : Instr) (s t : State) : Prop where
  stage : t.stage = nextStage op s.sr s.stage
  sr : t.sr = nextSr s.sr s.stage
  cmd : t.cmd = s.cmd
  busy : t.busy = decide (s.stage ≠ .finish)
  outputs : s.stage ≠ .finish → outputs t = outputs s

theorem commandOperands_cmd (i : Instr) (s : State) : (commandOperands i s).cmd = s.cmd := by
  unfold commandOperands; split <;> rfl

section
variable {op : Instr} {s t : State}

/-- Holding a result or noting an error leads to `FINISH` and shows nothing (R233, R240, R286). -/
theorem advances_holdOrRaise (r : Except Err (List Byte)) {u : State} (hb : s.busy = true)
    (hst : s.stage ≠ .finish) (hnext : nextStage op s.sr s.stage = .finish) (hsr : u.sr = nextSr s.sr s.stage)
    (hcmd : u.cmd = s.cmd) (hbusy : u.busy = s.busy) (hout : outputs u = outputs s) :
    Advances op s (holdOrRaise r u) := by
  have hbusy' : u.busy = decide (s.stage ≠ .finish) := by simp [hbusy, hb, hst]
  cases r <;> exact ⟨hnext.symm, hsr, hcmd, hbusy', fun _ => hout⟩

theorem advances_stepExec (hb : s.busy = true) (hst : s.stage = .exec) (h : stepExec op s = some t) :
    Advances op s t := by
  obtain ⟨r, -, rfl⟩ := stepExec_cases op s t h
  exact advances_holdOrRaise r (u := commandOperands op s) hb (by simp [hst]) (by simp [hst, nextStage])
    (by simp [hst, nextSr, commandOperands_sr]) (commandOperands_cmd op s) (commandOperands_busy op s)
    (outputs_commandOperands op s)

theorem advances_stepIpek (hb : s.busy = true) (hst : s.stage = .ipek) (h : stepIpek op s = some t) :
    Advances op s t := by
  rcases stepIpek_cases op s t h with ⟨rfl, rfl⟩ | ⟨hop, rfl⟩
  · constructor <;> simp [hst, hb, nextStage, nextSr, outputs]
  · have hne : op ≠ .deriveIpek := by rcases hop with rfl | rfl <;> decide
    constructor <;> simp [hst, hb, hne, nextStage, nextSr, outputs]

theorem advances_stepWkInit (hb : s.busy = true) (hst : s.stage = .wkInit) (h : stepWkInit op s = some t) :
    Advances op s t := by
  obtain ⟨-, rfl⟩ := stepWkInit_cases op s t h
  constructor <;> simp [hst, hb, nextStage, nextSr, outputs]

theorem advances_stepWkIter (hb : s.busy = true) (hst : s.stage = .wkIter) (h : stepWkIter op s = some t) :
    Advances op s t := by
  rcases stepWkIter_cases op s t h with ⟨hsr, rfl⟩ | ⟨hsr, rfl, rfl⟩ | ⟨hsr, hop, rfl⟩
  · constructor <;> simp [hst, hb, hsr, nextStage, nextSr, outputs]
  · constructor <;> simp [hst, hb, hsr, nextStage, nextSr, outputs]
  · have hne : op ≠ .deriveWk := by rcases hop with rfl | rfl <;> decide
    constructor <;> simp [hst, hb, hsr, hne, nextStage, nextSr, outputs]

theorem advances_stepSession (hb : s.busy = true) (hst : s.stage = .session) (h : stepSession op s = some t) :
    Advances op s t := by
  rcases stepSession_cases op s t h with ⟨rfl, rfl⟩ | ⟨hop, rfl⟩
  · constructor <;> simp [hst, hb, nextStage, nextSr, outputs]
  · have hne : op ≠ .decryptTrack := by rcases hop with rfl | rfl <;> decide
    constructor <;> simp [hst, hb, hne, nextStage, nextSr, outputs]

theorem advances_stepTrack (hb : s.busy = true) (hst : s.stage = .track) (h : stepTrack op s = some t) :
    Advances op s t := by
  obtain ⟨-, rfl⟩ := stepTrack_cases op s t h
  exact advances_holdOrRaise _ hb (by simp [hst]) (by simp [hst, nextStage]) (by simp [hst, nextSr]) rfl rfl rfl

theorem advances_stepFinish (hst : s.stage = .finish) : Advances op s (stepFinish s) := by
  constructor <;> simp [hst, nextStage, nextSr]

/-- R241: every engine step moves the sequencer as the table of stages says. -/
theorem engineStep_advances (hd : decode s.cmd = .ok op) (h : engineStep s = some t) : Advances op s t := by
  obtain ⟨hb, op', hd', hstep⟩ := engineStep_cases s t h
  obtain rfl : op' = op := by simpa [hd] using hd'.symm
  rcases hstep with ⟨hst, h⟩ | ⟨hst, h⟩ | ⟨hst, h⟩ | ⟨hst, h⟩ | ⟨hst, h⟩ | ⟨hst, h⟩ | ⟨hst, rfl⟩
  · exact advances_stepExec hb hst h
  · exact advances_stepIpek hb hst h
  · exact advances_stepWkInit hb hst h
  · exact advances_stepWkIter hb hst h
  · exact advances_stepSession hb hst h
  · exact advances_stepTrack hb hst h
  · exact advances_stepFinish hst

end

/-- The shift empties `SR` exactly at its last position (R238). -/
theorem shift_ne_zero_iff {x : BitVec 21} (h : oneHot x = true) : x >>> 1 ≠ 0#21 ↔ x ≠ 1#21 := by
  have hx := ((oneHot_iff_toNat x).1 h).1
  rw [ne_eq, ne_eq, ← BitVec.toNat_inj, ← BitVec.toNat_inj, BitVec.toNat_ushiftRight, Nat.shiftRight_one]
  change ¬x.toNat / 2 = 0 ↔ ¬x.toNat = 1
  omega

/-! ### A running command has a step (R230) -/

section
variable {op : Instr} {s : State}

theorem firstStage_of_exec_mem : .exec ∈ stagesOf op → firstStage op = .exec := by cases op <;> decide

theorem op_of_ipek_mem : .ipek ∈ stagesOf op → op = .deriveIpek ∨ op = .deriveKey ∨ op = .decryptTrack := by
  cases op <;> decide

theorem op_of_wkInit_mem : .wkInit ∈ stagesOf op → op = .deriveWk ∨ op = .deriveKey ∨ op = .decryptTrack := by
  cases op <;> decide

theorem op_of_wkIter_mem : .wkIter ∈ stagesOf op → op = .deriveWk ∨ op = .deriveKey ∨ op = .decryptTrack := by
  cases op <;> decide

theorem op_of_session_mem : .session ∈ stagesOf op → op = .deriveSk ∨ op = .deriveKey ∨ op = .decryptTrack := by
  cases op <;> decide

theorem op_of_track_mem : .track ∈ stagesOf op → op = .decryptTrack := by cases op <;> decide

/-- R230: a running command has a step at each of its stages. -/
theorem Running.exists_engineStep (h : Running op s) : ∃ t, engineStep s = some t := by
  have hmem := h.stage
  have hcomp : s.stage ≠ .finish → Computing op s := h.computing
  cases hst : s.stage <;> rw [hst] at hmem hcomp
  case idle => exact absurd hst h.stage_ne_idle
  case exec =>
    rw [(hcomp nofun).engineStep_exec hst, stepExec, execFunction_of_firstStage op s (firstStage_of_exec_mem hmem)]
    exact ⟨_, rfl⟩
  case ipek =>
    rw [(hcomp nofun).engineStep_ipek hst]
    rcases op_of_ipek_mem hmem with rfl | rfl | rfl <;> exact ⟨_, rfl⟩
  case wkInit =>
    rw [(hcomp nofun).engineStep_wkInit hst, stepWkInit, if_pos (op_of_wkInit_mem hmem)]
    exact ⟨_, rfl⟩
  case wkIter =>
    rw [(hcomp nofun).engineStep_wkIter hst]
    by_cases hsr : s.sr >>> 1 = 0#21
    · exact ⟨_, stepWkIter_last op s (op_of_wkIter_mem hmem) hsr⟩
    · exact ⟨_, stepWkIter_next op s hsr⟩
  case session =>
    rw [(hcomp nofun).engineStep_session hst]
    rcases op_of_session_mem hmem with rfl | rfl | rfl <;> exact ⟨_, rfl⟩
  case track =>
    rw [(hcomp nofun).engineStep_track hst, stepTrack, if_pos (op_of_track_mem hmem)]
    exact ⟨_, rfl⟩
  case finish => exact ⟨_, h.engineStep_finish hst⟩

end

/-! ### No step faults (R230, log entry 8) -/

theorem engineStep_idle {s : State} (hb : s.busy = false) : engineStep s = none := by simp [engineStep, hb]

theorem engineTurn_of_engineStep {s t : State} (h : engineStep s = some t) : engineTurn s = .next t := by
  simp [engineTurn, (engineStep_cases s t h).1, h]

theorem engineTurn_ne_fault {s : State} (hinv : s.inv = true) (f : Fault) : engineTurn s ≠ .fault f := by
  rcases engineTurn_cases s with ⟨-, h⟩ | ⟨-, t, -, h⟩ | ⟨hb, hnone, -⟩
  · simp [h]
  · simp [h]
  · obtain ⟨op, hrun⟩ := (inv_iff_running s hb).1 hinv
    obtain ⟨t, ht⟩ := hrun.exists_engineStep
    simp [hnone] at ht

theorem exec_ne_fault (i : Instr) (s : State) (f : Fault) : exec i s ≠ .fault f := by
  rw [exec_eq_runCommand]
  intro h
  rcases runCommand_cases i _ s _ h with ⟨-, ho⟩ | ⟨_, -, -, ho⟩ | ⟨-, -, ho⟩ <;> cases ho

theorem runWord_ne_fault (w : Word) (s : State) (f : Fault) : runWord w s ≠ .fault f := by
  unfold runWord
  split
  · exact exec_ne_fault _ s f
  · nofun

/-- Only the engine's turn can fault, and under the invariant it has its step. -/
theorem step_ne_fault {s : State} (hinv : s.inv = true) (f : Fault) : step s ≠ .fault f := by
  cases ha : s.agenda with
  | nil => rw [step_nil s ha]; exact engineTurn_ne_fault hinv f
  | cons e rest =>
    rw [step_cons s e rest ha]
    cases e with
    | read size addr =>
      rcases hostRead_cases size addr { s with agenda := rest } with ⟨_, -, h⟩ | ⟨_, -, h⟩ <;> simp [perform, h]
    | write size addr v =>
      rcases hostWrite_cases size addr v { s with agenda := rest } with ⟨_, -, h⟩ | ⟨_, -, h⟩ <;> simp [perform, h]
    | command w => exact runWord_ne_fault w _ f
    | engine => exact engineTurn_ne_fault (s := { s with agenda := rest }) hinv f
    | reset => nofun

/-! ### The steps of `WK_ITER` and `FINISH` (R236, R237, R244) -/

/-- The key step uses the new `KSNR` (R236). -/
theorem counterBitStep_curkey_of_ksnr (s : State) :
    (counterBitStep s).curkey =
      if s.sr &&& s.ctr ≠ 0#21 then generateKey s.curkey (bytesN 8 (counterBitStep s).ksnr.toNat) else s.curkey := by
  rw [counterBitStep_curkey, counterBitStep_ksnr]
  split <;> rfl

theorem engineStep_finish {op : Instr} {s : State} (hb : s.busy = true) (hd : decode s.cmd = .ok op)
    (hst : s.stage = .finish) : engineStep s = some (stepFinish s) := by
  simp [engineStep, hb, hd, hst]

theorem stepFinish_of_perr {s : State} (h : s.perr ≠ 0#16) :
    stepFinish s = { retire s with err := true, errcode := s.perr, done := true } := by
  rw [stepFinish, publish, if_pos h]
  rfl

theorem stepFinish_of_res {s : State} (h : s.perr = 0#16) (hlen : s.res.length = s.rlen.toNat) :
    stepFinish s = { retire s with dout := overlay s.dout s.res, olen := s.rlen, done := true } := by
  rw [stepFinish, publish, if_neg (not_not_intro h), ← hlen, List.take_length]
  rfl

/-! ### Runs of the engine (R231, R242, R247) -/

theorem engineSteps_eq (i : Instr) :
    engineSteps i =
      if i = .deriveWk then 23 else if i = .deriveKey then 25 else if i = .decryptTrack then 26 else 2 := by
  cases i <;> rfl

/-- A run that goes on for `m` steps is busy before each of them (R230). -/
theorem busy_before_engineRun {n m : Nat} {s u : State} (h : engineRun m s = some u) (hn : n < m) :
    ∃ t, engineRun n s = some t ∧ t.busy = true := by
  obtain ⟨k, rfl⟩ := Nat.exists_eq_add_of_lt hn
  obtain ⟨t, ht, hrest⟩ := engineRun_add (n := n) (m := k + 1) h
  exact ⟨t, ht, busy_of_engineRun_succ hrest⟩

/-- Two states at the same place of the sequencer, whatever their operands and transients (R247). -/
structure SameControl (s1 s2 : State) : Prop where
  cmd : s1.cmd = s2.cmd
  stage : s1.stage = s2.stage
  sr : s1.sr = s2.sr
  busy : s1.busy = s2.busy

section
variable {s1 s2 t1 : State}

/-- R241: the next place of the sequencer is a function of the present one. -/
theorem SameControl.exists_engineStep (h : SameControl s1 s2) (hinv2 : s2.inv = true) (h1 : engineStep s1 = some t1) :
    ∃ t2, engineStep s2 = some t2 ∧ SameControl t1 t2 := by
  obtain ⟨hb1, op, hd1, -⟩ := engineStep_cases s1 t1 h1
  obtain ⟨_, hrun2⟩ := (inv_iff_running s2 (h.busy ▸ hb1)).1 hinv2
  obtain ⟨t2, h2⟩ := hrun2.exists_engineStep
  obtain ⟨hstage1, hsr1, hcmd1, hbusy1, -⟩ := engineStep_advances hd1 h1
  obtain ⟨hstage2, hsr2, hcmd2, hbusy2, -⟩ := engineStep_advances (h.cmd ▸ hd1) h2
  rw [← h.stage, ← h.sr] at hstage2 hsr2
  rw [← h.stage] at hbusy2
  exact ⟨t2, h2, hcmd1.trans (h.cmd.trans hcmd2.symm), hstage1.trans hstage2.symm, hsr1.trans hsr2.symm,
    hbusy1.trans hbusy2.symm⟩

/-- R247: equal places of the sequencer stay equal along every run. -/
theorem SameControl.exists_engineRun (n : Nat) (h : SameControl s1 s2) (hinv2 : s2.inv = true)
    (h1 : engineRun n s1 = some t1) : ∃ t2, engineRun n s2 = some t2 ∧ SameControl t1 t2 := by
  induction n generalizing s1 s2 with
  | zero => cases h1; exact ⟨s2, rfl, h⟩
  | succ n ih =>
    rw [engineRun] at h1
    split at h1
    · next u1 hu1 =>
      obtain ⟨u2, hu2, hu⟩ := h.exists_engineStep hinv2 hu1
      rw [engineRun_succ n s2 u2 hu2]
      exact ih hu (inv_engineTurn hinv2 (engineTurn_of_engineStep hu2)) h1
    · cases h1

end

end Sys2Proof.Machine
end

section
/-! The statements of the sequencer family: O39, O45, O35, O36, O37, O38. -/

open Sys2Proof Sys2Proof.Machine

/-- Settles O39: the run of a started command has its known length and ends where the functional view does, and a run is
busy before each of its steps. -/
theorem everyCommandEnds : Obligations.EveryCommandEnds := by
  intro s i hinv hb hstart
  have hrun := ((inv_iff_idle s hb).1 hinv).engineRun_startCommand hstart
  have hexec := runCommand_started i (fun t => conclude (commandResult i t) (commandOperands i t)) s hb hstart
  rw [← exec_eq_runCommand] at hexec
  obtain ⟨hbusy, hdone, -, -⟩ := exec_ends hb hexec
  have hidle := (inv_iff_idle _ hbusy).1 (inv_exec i hinv hexec)
  rw [engineSteps_eq] at hrun
  exact ⟨fun n hn => busy_before_engineRun hrun hn, _, hrun, hbusy, hdone, hidle.rest.stage⟩

/-- Settles O45: along the run, both states stay at the same place of the sequencer. -/
theorem controlFlowIndependentOfOperands : Obligations.ControlFlowIndependentOfOperands := by
  intro s1 s2 t1 n _ hinv2 hb1 hb2 hcmd hstage hsr h1
  obtain ⟨t2, h2, ht⟩ := SameControl.exists_engineRun n ⟨hcmd, hstage, hsr, hb1.trans hb2.symm⟩ hinv2 h1
  exact ⟨t2, h2, ht.stage, ht.sr, ht.busy⟩

/-- Settles O35: a running command has a step at each of its stages, and nothing but the engine's turn can fault. -/
theorem engineStepEnabled : Obligations.EngineStepEnabled := by
  refine fun s => ⟨fun hb => ⟨engineStep_idle hb, by simp [engineTurn, hb]⟩, fun hinv hb => ?_, step_ne_fault⟩
  obtain ⟨op, hrun⟩ := (inv_iff_running s hb).1 hinv
  obtain ⟨t, ht⟩ := hrun.exists_engineStep
  exact ⟨t, ht, engineTurn_of_engineStep ht⟩

/-- Settles O36: the key step, then the shift, which stays in the loop or leaves it. -/
theorem wkIterStep : Obligations.WkIterStep := by
  intro s op hinv hb hst hd hop ksnr cur
  obtain ⟨op', hrun⟩ := (inv_iff_running s hb).1 hinv
  obtain rfl : op' = op := by simpa [hd] using hrun.decodes.symm
  have hksnr : (counterBitStep s).ksnr = ksnr := counterBitStep_ksnr s
  have hcur : (counterBitStep s).curkey = cur := by rw [counterBitStep_curkey_of_ksnr, hksnr]
  have hlen : cur.length = 16 := hcur ▸ counterBitStep_curkey_length s hrun.quiet.sizes.curkey
  have hkey := counterBitStep_eq s
  rw [hksnr, hcur] at hkey
  rw [(hrun.computing (by simp [hst])).engineStep_wkIter hst]
  refine ⟨fun hsr => ?_, fun hsr hwk => ?_, fun hsr hwk => ?_⟩
  · rw [stepWkIter_next _ s hsr, hkey]
  · rw [stepWkIter_last _ s hop hsr, hkey, leaveLoop, if_pos hwk, holdResult, hlen]
  · rw [stepWkIter_last _ s hop hsr, hkey, leaveLoop, if_neg hwk]

/-- Settles O37: what `FINISH` leaves in either case, and that the other steps show nothing. -/
theorem finishPublishes : Obligations.FinishPublishes := by
  intro s op hb hd
  refine ⟨fun hst hperr => ?_, fun hst hperr hlen => ?_, fun t hst ht => ?_⟩
  · rw [engineStep_finish hb hd hst, stepFinish_of_perr hperr]
    rfl
  · rw [engineStep_finish hb hd hst, stepFinish_of_res hperr hlen]
    rfl
  · obtain ⟨-, -, -, hbusy, hout⟩ := engineStep_advances hd ht
    have hsame := hout hst
    simp only [outputs, Prod.mk.injEq] at hsame
    obtain ⟨hdout, holen, hdone, herr, hcode⟩ := hsame
    exact ⟨hdout, holen, herr, hcode, hdone, by simp [hbusy, hst]⟩

/-- Settles O38: the table of stages, with its test of `SR` at a one-hot value. -/
theorem stageTransitions : Obligations.StageTransitions := by
  intro s t op hinv hd ht
  obtain ⟨op', hrun⟩ := (inv_iff_running s (engineStep_cases s t ht).1).1 hinv
  obtain ⟨hstage, -, hcmd, -, -⟩ := engineStep_advances hd ht
  refine ⟨fun hst => ?_, fun hst => ?_, fun hst => ?_, fun hst => ?_, fun hst => ?_, fun hst => ?_, fun hst => ?_,
    hrun.stage_ne_idle, hcmd⟩ <;> rw [hst] at hstage
  case refine_4 =>
    have hhot : oneHot s.sr = true := by simpa [hst] using hrun.loop
    simpa only [nextStage, shift_ne_zero_iff hhot] using hstage
  all_goals exact hstage

end

section
/-! SUPPORT. The codec of the host's side (R262 to R264): which strings parse and to what, the digits of a byte and back,
the bytes that are characters; and the end of `CLEAR` (R271). -/

namespace Sys2Proof.Machine

/-! ### Hex digits (R262, R263) -/

/-- R263: the codes from `0` on for the first ten digits, and from `A` on for the other six. -/
theorem toNat_upperHexDigit {n : Nat} (hn : n < 16) :
    (upperHexDigit n).toNat = if n < 10 then 48 + n else 55 + n := by
  have hvalid : (if n < 10 then 48 + n else 55 + n).isValidChar := Or.inl (by split <;> omega)
  rw [upperHexDigit, Char.ofNat, dif_pos hvalid]
  exact Char.toNat_ofNatAux hvalid

theorem hexDigit_upperHexDigit {n : Nat} (hn : n < 16) : hexDigit (upperHexDigit n) = some n := by
  rw [hexDigit, toNat_upperHexDigit hn]
  rcases Nat.lt_or_ge n 10 with h | h
  · rw [if_pos h, if_pos (by omega), Nat.add_sub_cancel_left]
  · rw [if_neg h.not_gt, if_neg (by omega), if_pos (by omega), Nat.add_sub_cancel_left]

theorem isLower_iff (c : Char) : c.isLower = true ↔ 97 ≤ c.toNat ∧ c.toNat ≤ 122 := by
  simp [Char.isLower, UInt32.le_iff_toNat_le]

/-- R262, R263: rendering the value of a digit gives the digit in upper case, which for a letter from `a` to `f` is 32
codes below it. -/
theorem upperHexDigit_of_hexDigit {c : Char} {x : Nat} (h : hexDigit c = some x) : upperHexDigit x = c.toUpper := by
  have hcode : (if x < 10 then 48 + x else 55 + x) = if c.isLower = true then c.toNat - 32 else c.toNat := by
    unfold hexDigit at h
    simp only [isLower_iff]
    split_ifs at h <;> simp only [Option.some.injEq] at h <;> split_ifs <;> omega
  rw [upperHexDigit, hcode]
  split
  · next hlower => exact (Char.toUpper_eq_of_isLower hlower).symm
  · next hlower => rw [Char.toUpper_eq_of_not_isLower hlower, Char.ofNat_toNat]

/-! ### Pairs of digits (R262) -/

/-- R262: the only error is `MalformedHex`. -/
theorem hexPairs_eq_malformedHex {cs : List Char} (h : ∀ b, hexPairs cs ≠ .ok b) :
    hexPairs cs = .error .malformedHex := by
  match cs with
  | [] => exact absurd rfl (h [])
  | [_] => rfl
  | c :: d :: rest =>
    rw [hexPairs] at h ⊢
    split
    · next hx hy hrest => exact absurd (by rw [hx, hy, hrest]) (h _)
    · rfl

theorem hexPairs_cons_cons_eq_ok {c d : Char} {rest : List Char} {b : List Byte} :
    hexPairs (c :: d :: rest) = .ok b ↔ ∃ x y bs, hexDigit c = some x ∧ hexDigit d = some y ∧
      hexPairs rest = .ok bs ∧ b = BitVec.ofNat 8 (16 * x + y) :: bs := by
  rw [hexPairs]
  cases hexDigit c <;> cases hexDigit d <;> cases hexPairs rest <;> simp [eq_comm]

/-- R262: the strings that parse. -/
theorem exists_hexPairs_eq_ok : ∀ cs : List Char,
    (∃ b, hexPairs cs = .ok b) ↔ cs.length % 2 = 0 ∧ ∀ c ∈ cs, (hexDigit c).isSome = true
  | [] => by simp [hexPairs]
  | [_] => by simp [hexPairs]
  | c :: d :: rest => by
    have ih := exists_hexPairs_eq_ok rest
    simp only [hexPairs_cons_cons_eq_ok, List.forall_mem_cons, List.length_cons, Option.isSome_iff_exists] at ih ⊢
    constructor
    · rintro ⟨_, x, y, bs, hx, hy, hrest, -⟩
      obtain ⟨hlen, hdigits⟩ := ih.1 ⟨bs, hrest⟩
      exact ⟨by omega, ⟨x, hx⟩, ⟨y, hy⟩, hdigits⟩
    · rintro ⟨hlen, ⟨x, hx⟩, ⟨y, hy⟩, hdigits⟩
      obtain ⟨bs, hrest⟩ := ih.2 ⟨by omega, hdigits⟩
      exact ⟨_, x, y, bs, hx, hy, hrest, rfl⟩

/-- R262: one byte for each pair. -/
theorem length_of_hexPairs : ∀ {cs : List Char} {b : List Byte}, hexPairs cs = .ok b → 2 * b.length = cs.length
  | [], _, h => by cases h; rfl
  | _ :: _ :: rest, _, h => by
    obtain ⟨x, y, bs, -, -, hrest, rfl⟩ := hexPairs_cons_cons_eq_ok.1 h
    have ih := length_of_hexPairs hrest
    simp only [List.length_cons]
    omega

/-! ### The round trips (R263) -/

@[simp] theorem hexFromBytes_length (b : List Byte) : (hexFromBytes b).length = 2 * b.length := by
  induction b with
  | nil => rfl
  | cons x b ih => simp only [hexFromBytes, List.length_cons, ih]; omega

/-- R263: a rendered byte sequence parses to itself. -/
theorem hexPairs_hexFromBytes (b : List Byte) : hexPairs (hexFromBytes b) = .ok b := by
  induction b with
  | nil => rfl
  | cons x b ih =>
    have hhigh : x.toNat / 16 < 16 := by omega
    have hlow : x.toNat % 16 < 16 := by omega
    refine hexPairs_cons_cons_eq_ok.2
      ⟨_, _, b, hexDigit_upperHexDigit hhigh, hexDigit_upperHexDigit hlow, ih, ?_⟩
    rw [Nat.div_add_mod, BitVec.ofNat_toNat, BitVec.setWidth_eq]

/-- R263: a string that parses is, in upper case, what its bytes render to. -/
theorem hexFromBytes_of_hexPairs : ∀ {cs : List Char} {b : List Byte}, hexPairs cs = .ok b →
    hexFromBytes b = cs.map Char.toUpper
  | [], _, h => by cases h; rfl
  | c :: d :: rest, _, h => by
    obtain ⟨x, y, bs, hx, hy, hrest, rfl⟩ := hexPairs_cons_cons_eq_ok.1 h
    have hxlt := hexDigit_lt c x hx
    have hylt := hexDigit_lt d y hy
    have hbyte : (BitVec.ofNat 8 (16 * x + y)).toNat = 16 * x + y := Nat.mod_eq_of_lt (by omega)
    have hhigh : (16 * x + y) / 16 = x := by omega
    have hlow : (16 * x + y) % 16 = y := by omega
    rw [hexFromBytes, hbyte, hhigh, hlow, upperHexDigit_of_hexDigit hx, upperHexDigit_of_hexDigit hy,
      hexFromBytes_of_hexPairs hrest]
    rfl

/-- A rendered byte sequence has no space for `bytesFromHex` to remove: a space is no digit. -/
theorem bytesFromHex_hexFromBytes (b : List Byte) : bytesFromHex (hexFromBytes b) = .ok b := by
  obtain ⟨-, hdigits⟩ := (exists_hexPairs_eq_ok _).1 ⟨b, hexPairs_hexFromBytes b⟩
  have hclean : (hexFromBytes b).filter (fun c => c ≠ ' ') = hexFromBytes b :=
    List.filter_eq_self.2 fun c hc => decide_eq_true fun hspace =>
      absurd (hspace ▸ hdigits c hc) (by decide)
  rw [bytesFromHex, hclean, hexPairs_hexFromBytes]

/-! ### Characters of bytes (R264) -/

theorem hexToAscii_cons_of_ge {x : Byte} (h : 128 ≤ x.toNat) (b : List Byte) :
    hexToAscii (x :: b) = .error .malformedHex := by rw [hexToAscii, if_pos h]

theorem hexToAscii_cons_of_lt {x : Byte} (h : x.toNat < 128) (b : List Byte) :
    hexToAscii (x :: b) = (hexToAscii b).map (Char.ofNat x.toNat :: ·) := by
  rw [hexToAscii, if_neg h.not_ge]
  cases hexToAscii b <;> rfl

/-! ### The end of `CLEAR` (R271) -/

/-- `CLEAR` ends as a command without a result, with its operands zeroised. -/
theorem exec_clear {s : State} (hb : s.busy = false) :
    exec .clear s = .next (clearOperands (endedWell (encode .clear) [] s)) := by
  rw [exec_eq_runCommand, runCommand_started .clear _ s hb (startError_none .clear s rfl rfl)]
  exact congrArg (Host.Outcome.next ∘ clearOperands) (deliver_beginCommand [] (encode .clear) s)

/-- From a state of the invariant nothing that reset erases is left but `CMD` and `DONE`: the engine is at rest. -/
theorem Idle.clearOperands_endedWell {s : State} (h : Idle s) (w : Word) :
    clearOperands (endedWell w [] s) =
      { State.resetOf s.params with cmd := w, done := true, agenda := s.agenda, returned := s.returned } := by
  rw [← h.rest.retire_eq]
  rfl

end Sys2Proof.Machine
end

section
/-! The statements of the track and codec family: O55, O56, O57, O8, O9. -/

open Sys2Proof Sys2Proof.Machine

/-- Settles O55: the strings that parse, and the one error of the others. -/
theorem hexParsingIsStrict : Obligations.HexParsingIsStrict := by
  intro cs clean digit
  have hparses : (∃ b, bytesFromHex cs = .ok b) ↔ clean.length % 2 = 0 ∧ ∀ c ∈ clean, digit c :=
    (exists_hexPairs_eq_ok clean).trans (and_congr_right fun _ => forall₂_congr fun c _ => hexDigit_isSome c)
  refine ⟨fun hbad => hexPairs_eq_malformedHex fun b hb => ?_, fun heven hdigits => ?_⟩
  · obtain ⟨heven, hdigits⟩ := hparses.1 ⟨b, hb⟩
    obtain hodd | ⟨c, hc, hno⟩ := hbad
    · omega
    · exact hno (hdigits c hc)
  · obtain ⟨b, hb⟩ := hparses.2 ⟨heven, hdigits⟩
    exact ⟨b, hb, length_of_hexPairs hb⟩

/-- Settles O56: digit by digit, each way. -/
theorem hexRoundTrip : Obligations.HexRoundTrip :=
  ⟨fun b => ⟨bytesFromHex_hexFromBytes b, hexFromBytes_length b⟩, fun _ _ h => hexFromBytes_of_hexPairs h⟩

/-- Settles O57: by induction on the bytes, the first of which is a character or not. -/
theorem asciiIsStrict : Obligations.AsciiIsStrict := by
  intro b
  induction b with
  | nil => exact ⟨nofun, fun _ => rfl⟩
  | cons x b ih =>
    obtain ⟨hbad, hgood⟩ := ih
    rcases Nat.lt_or_ge x.toNat 128 with hx | hx
    · rw [hexToAscii_cons_of_lt hx]
      refine ⟨fun h => ?_, fun h => ?_⟩
      · rw [hbad (by simpa [hx.not_ge] using h)]
        rfl
      · rw [hgood fun y hy => h y (List.mem_cons_of_mem x hy)]
        rfl
    · exact ⟨fun _ => hexToAscii_cons_of_ge hx b, fun h => absurd (h x List.mem_cons_self) hx.not_gt⟩

/-- Settles O8: `NOP` reads no operand, so no start check can fail, and its result is empty. -/
theorem nopCompletes : Obligations.NopCompletes := fun s hb =>
  exec_eq_endedWell hb (startError_none .nop s rfl rfl) nofun rfl

/-- Settles O9: what `CLEAR` leaves, and for an idle engine that this is the reset state. -/
theorem clearZeroises : Obligations.ClearZeroises := by
  refine fun s hb => ⟨exec_clear hb, fun hinv => ?_⟩
  rw [exec_clear hb, ((inv_iff_idle s hb).1 hinv).clearOperands_endedWell]
  rfl

end

section
/-! SUPPORT. How an error ends a command (R283 to R286): the word that is no command, the errors found at start or
raised by the command's function, and the decryption whose padding is bad. -/

namespace Sys2Proof.Machine

/-- R286: an error taken after steps 1 and 2 of R94 leaves the word, the flags and an empty result, and nothing else. -/
theorem failAtStart_beginCommand (e : Err) (w : Word) (s : State) :
    failAtStart e (beginCommand w s) = endedInError w (errWord e) s := rfl

/-! ### A word that is no command (R93, R283) -/

section
variable {w : Word} {s : State}

theorem exists_decode_eq_error (h : ∀ i : Instr, w ≠ encode i) : ∃ r, decode w = .error r := by
  cases hd : decode w with
  | error r => exact ⟨r, rfl⟩
  | ok i => exact absurd (eq_encode_of_decode hd) (h i)

theorem startIllegal_idle (hb : s.busy = false) (w : Word) : startIllegal w s = endedInError w 0x0010#16 s := by
  simp only [startIllegal, hb, Bool.false_eq_true, if_false]
  exact failAtStart_beginCommand illegalCommand w s

theorem startCommand_of_decode_error {r : DecodeReject} (hd : decode w = .error r) (s : State) :
    startCommand w s = endedInError w 0x0010#16 s := by
  simp only [startCommand, hd]
  exact failAtStart_beginCommand illegalCommand w s

/-- R67, R94: a write to `CMD` while idle is the start sequence. -/
theorem hostWrite_cmd_idle (hb : s.busy = false) (w : Word) : hostWrite 4 0x000 w s = .next (startCommand w s) := by
  rw [hostWrite, (admit_eq_ok 4 0x000 .cmd).2 ⟨rfl, rfl, rfl⟩]
  rcases writeValue_cases .cmd w s with ⟨hbusy, -⟩ | ⟨-, -, hstart⟩ | ⟨-, hne, -⟩
  · simp [hb] at hbusy
  · exact congrArg _ hstart
  · exact absurd rfl hne

end

/-! ### The errors of a command (R284, R285) -/

/-- Everything a started command can end with: the two sub-causes of R284 and the three of R285. -/
def commandErrors : List Err := [badOperand 1#8, badOperand 2#8, cipherFailed 1#8, cipherFailed 2#8, cipherFailed 3#8]

theorem map_errWord_commandErrors :
    commandErrors.map errWord = [0x0111#16, 0x0211#16, 0x0102#16, 0x0202#16, 0x0302#16] := by decide

theorem encrypt_eq_error {alg : Alg} {key data : List Byte} {e : Err} (h : encrypt alg key data = .error e) :
    e = cipherFailed 1#8 := by
  unfold encrypt at h
  split at h <;> cases h
  rfl

section
variable {i : Instr} {s t : State} {e : Err}

theorem startError_mem_commandErrors (h : startError i s = some e) : e ∈ commandErrors := by
  rcases startError_cases i s e h with ⟨-, -, rfl⟩ | ⟨-, -, rfl⟩ | ⟨-, rfl⟩ | ⟨-, rfl⟩ <;> decide

theorem decrypt_error_mem_commandErrors {unpad : Bool} {alg : Alg} {key data : List Byte}
    (h : decrypt unpad alg key data = .error e) : e ∈ commandErrors := by
  rcases decrypt_error_cases unpad alg key data e h with rfl | rfl | ⟨rfl, -⟩ <;> decide

/-- Only the cipher engine raises: the other commands have a result whatever their operands hold. -/
theorem commandResult_error_mem_commandErrors (h : commandResult i s = .error e) : e ∈ commandErrors := by
  cases i
  case encDes | encTdes | encAes => rw [encrypt_eq_error h]; decide
  case decDes | decTdes | decAes | decryptTrack => exact decrypt_error_mem_commandErrors h
  all_goals cases h

theorem commandOperands_err (i : Instr) (s : State) : (commandOperands i s).err = s.err := by
  unfold commandOperands; split <;> rfl

/-- R286: a command whose function raises ends as one that fails a start check does. (`CLEAR` raises nothing, so the
operands stay.) -/
theorem exec_of_commandResult_error (hb : s.busy = false) (he : startError i s = none)
    (hr : commandResult i s = .error e) : exec i s = .next (endedInError (encode i) (errWord e) s) := by
  have hi : i ≠ .clear := by rintro rfl; cases hr
  rw [exec_eq_runCommand, runCommand_started i _ s hb he, commandResult_beginCommand, hr,
    commandOperands_of_ne_clear hi, conclude_error, failAtStart_beginCommand]

/-- A command from idle ends without error, or with one of the errors of R284 and R285 and nothing delivered. -/
theorem exec_err_cases (hb : s.busy = false) (h : exec i s = .next t) :
    t.err = false ∨ ∃ e ∈ commandErrors, t = endedInError (encode i) (errWord e) s := by
  cases he : startError i s with
  | some e =>
    rw [exec_of_startError hb he] at h
    cases h
    exact .inr ⟨e, startError_mem_commandErrors he, rfl⟩
  | none =>
    cases hr : commandResult i s with
    | error e =>
      rw [exec_of_commandResult_error hb he hr] at h
      cases h
      exact .inr ⟨e, commandResult_error_mem_commandErrors hr, rfl⟩
    | ok r =>
      rw [exec_eq_runCommand, runCommand_started i _ s hb he, commandResult_beginCommand, hr] at h
      cases h
      exact .inl (commandOperands_err i _)

end

/-! ### A decryption with bad padding (R141, R285 sub-cause 3) -/

section
variable {alg : Alg} {s : State}

theorem decrypt_of_bad_padding {key data : List Byte} (hk : key.length = keyLength alg) (h0 : data.length ≠ 0)
    (hd : data.length % blockWidth alg = 0)
    (hpad : pkcs7Unpad (ecb (blockDecrypt alg key) (blockWidth alg) data) (blockWidth alg) = none) :
    decrypt true alg key data = .error (cipherFailed 3#8) := by
  rw [decrypt_legal true alg key data hk h0 hd, hpad]
  rfl

/-- A decryption command that passes its start checks and finds bad padding delivers nothing. -/
theorem exec_of_bad_padding {i : Instr} {key : List Byte} (hs : Sizes s) (hb : s.busy = false)
    (hunpad : s.params.decUnpad = true) (hpos : 0 < s.dlen.toNat) (hd : s.dlen.toNat ≤ s.params.dataMax)
    (hmod : s.dlen.toNat % blockWidth alg = 0) (he : startError i s = none) (hk : key.length = keyLength alg)
    (hr : commandResult i s = decrypt s.params.decUnpad alg key (dataOperand s))
    (hpad : pkcs7Unpad (ecb (blockDecrypt alg key) (blockWidth alg) (dataOperand s)) (blockWidth alg) = none) :
    exec i s = .next (endedInError (encode i) 0x0302#16 s) := by
  have hdata : (dataOperand s).length = s.dlen.toNat := (dataOperand_length s hs).trans (Nat.min_eq_left hd)
  rw [hunpad, decrypt_of_bad_padding hk (by omega) (by rw [hdata, hmod]) hpad] at hr
  rw [exec_of_commandResult_error hb he hr, errWord_padding]

/-- R146 to R148: the end of a `DEC` command whose padding is bad. -/
theorem exec_decOf_of_bad_padding (hs : Sizes s) (hb : s.busy = false) (hunpad : s.params.decUnpad = true)
    (hpos : 0 < s.dlen.toNat) (hd : s.dlen.toNat ≤ s.params.dataMax) (hk : s.klen.toNat = keyLength alg)
    (hmod : s.dlen.toNat % blockWidth alg = 0)
    (hpad : pkcs7Unpad (ecb (blockDecrypt alg (keyOperand s)) (blockWidth alg) (dataOperand s)) (blockWidth alg) =
      none) : exec (decOf alg) s = .next (endedInError (encode (decOf alg)) 0x0302#16 s) :=
  exec_of_bad_padding hs hb hunpad hpos hd hmod
    (startError_none (decOf alg) s (legalKlen_decOf hk) (legalDlen_decOf hpos hmod hd)) (keyOperand_length_eq hs hk)
    (commandResult_decOf alg s) hpad

end

end Sys2Proof.Machine
end

section
/-! The statements of the exceptions family: O3, O15, O26. -/

open Sys2Proof Sys2Proof.Machine

/-- Settles O3: no command has the word, so neither view's start decodes it. -/
theorem illegalWordEndsAtOnce : Obligations.IllegalWordEndsAtOnce := by
  intro s w hb hw
  obtain ⟨r, hd⟩ := exists_decode_eq_error hw
  refine ⟨?_, ?_⟩
  · rw [runWord, hd, startIllegal_idle hb]
  · rw [hostWrite_cmd_idle hb, startCommand_of_decode_error hd]

/-- Settles O15: one lemma for the three algorithms, and the same under the derived key. -/
theorem badPaddingDeliversNothing : Obligations.BadPaddingDeliversNothing := by
  intro s hinv hb hunpad hpos hd
  have hs := ((inv_iff_idle s hb).1 hinv).sizes
  refine ⟨fun hk => exec_decOf_of_bad_padding (alg := .des) hs hb hunpad hpos hd (congrArg BitVec.toNat hk),
    fun hk => exec_decOf_of_bad_padding (alg := .tdes) hs hb hunpad hpos hd (congrArg BitVec.toNat hk),
    fun hk => exec_decOf_of_bad_padding (alg := .aes) hs hb hunpad hpos hd (congrArg BitVec.toNat hk),
    fun hk hmod hpad => ?_⟩
  have he := startError_decryptTrack (hk.imp (congrArg BitVec.toNat) (congrArg BitVec.toNat)) hpos hmod hd
  exact exec_of_bad_padding (i := .decryptTrack) (alg := .aes) hs hb hunpad hpos hd hmod he (deriveKey_length _ _) rfl
    hpad

/-- Settles O26: a command from idle has ended, and with an error only as `endedInError`. -/
theorem errorsDeliverNothing : Obligations.ErrorsDeliverNothing := by
  intro s t i hb h
  obtain ⟨hbusy, hdone, -, -⟩ := exec_ends hb h
  refine ⟨hbusy, hdone, fun herr => ?_⟩
  rcases exec_err_cases hb h with hno | ⟨e, he, rfl⟩
  · simp [hno] at herr
  · exact ⟨rfl, map_errWord_commandErrors ▸ List.mem_map_of_mem he⟩

end
